-- ==== Sys2Proof/Word.lean ====
section
/-! DEFINITION. Bytes, words and their halves (00_scope.md R4, R6). -/

namespace Sys2Proof

/-- Eight bits: a register half, a byte of memory, an opcode (00_scope.md R4). -/
abbrev Byte := BitVec 8

/-- Sixteen bits: a register cell or an address (00_scope.md R4). -/
abbrev Word := BitVec 16

/-- `hi(v) = v >> 8` (00_scope.md R6). -/
def hi8 (w : Word) : Byte := w.extractLsb' 8 8

/-- `lo(v) = v & 0xFF` (00_scope.md R6). -/
def lo8 (w : Word) : Byte := w.extractLsb' 0 8

/-- `hi:lo`, the value `(hi << 8) | lo` (00_scope.md R6). -/
def pair (h l : Byte) : Word := h ++ l

end Sys2Proof
end

