-- ==== Sys2Proof/Syntax.lean ====
section
/-! DEFINITION. The instructions: the operand selectors of 30_encoding.md R85 to R89 and one constructor for each row of
spec/opcode_table.json (the twelve rows named "(undefined)" share one, which carries its byte, log 12). -/

namespace Sys2Proof

/-- The seven 8-bit registers of the selector table R8, without the memory operand (30_encoding.md R86). -/
inductive Reg8 where
  | b | c | d | e | h | l | a
  deriving DecidableEq, Repr

/-- An entry of the selector table R8: a register, or `M`, the byte at `HL` (30_encoding.md R86). -/
inductive R8Sel where
  | reg (r : Reg8)
  | m
  deriving DecidableEq, Repr

/-- The table RP (30_encoding.md R85). -/
inductive RegPair where
  | bc | de | hl | sp
  deriving DecidableEq, Repr

/-- The table RP of `PUSH` and `POP`, where `SP` is replaced by `AF` (30_encoding.md R85). -/
inductive StackPair where
  | bc | de | hl | psw
  deriving DecidableEq, Repr

/-- The two pairs of `LDAX` and `STAX` (40_data_moves.md R118, R119). -/
inductive IndexPair where
  | bc | de
  deriving DecidableEq, Repr

/-- The table ALU (30_encoding.md R87). -/
inductive AluOp where
  | add | adc | sub | sbb | ana | xra | ora | cmp
  deriving DecidableEq, Repr

/-- The table CC (30_encoding.md R88). -/
inductive Cond where
  | nz | z | nc | c | po | pe | p | m
  deriving DecidableEq, Repr

/-- One constructor for each mnemonic of spec/opcode_table.json, in the table's order. -/
inductive Instr where
  | nop
  | lxiB (d16 : Word)
  | staxB
  | inxB
  | inrB
  | dcrB
  | mviB (d8 : Byte)
  | rlc
  /-- One of the twelve bytes to which the opcode map assigns no instruction (30_encoding.md R92). -/
  | undefinedOpcode (op : Byte)
  | dadB
  | ldaxB
  | dcxB
  | inrC
  | dcrC
  | mviC (d8 : Byte)
  | rrc
  | lxiD (d16 : Word)
  | staxD
  | inxD
  | inrD
  | dcrD
  | mviD (d8 : Byte)
  | ral
  | dadD
  | ldaxD
  | dcxD
  | inrE
  | dcrE
  | mviE (d8 : Byte)
  | rar
  | lxiH (d16 : Word)
  | shld (a16 : Word)
  | inxH
  | inrH
  | dcrH
  | mviH (d8 : Byte)
  | daa
  | dadH
  | lhld (a16 : Word)
  | dcxH
  | inrL
  | dcrL
  | mviL (d8 : Byte)
  | cma
  | lxiSp (d16 : Word)
  | sta (a16 : Word)
  | inxSp
  | inrM
  | dcrM
  | mviM (d8 : Byte)
  | stc
  | dadSp
  | lda (a16 : Word)
  | dcxSp
  | inrA
  | dcrA
  | mviA (d8 : Byte)
  | cmc
  | movBB
  | movBC
  | movBD
  | movBE
  | movBH
  | movBL
  | movBM
  | movBA
  | movCB
  | movCC
  | movCD
  | movCE
  | movCH
  | movCL
  | movCM
  | movCA
  | movDB
  | movDC
  | movDD
  | movDE
  | movDH
  | movDL
  | movDM
  | movDA
  | movEB
  | movEC
  | movED
  | movEE
  | movEH
  | movEL
  | movEM
  | movEA
  | movHB
  | movHC
  | movHD
  | movHE
  | movHH
  | movHL
  | movHM
  | movHA
  | movLB
  | movLC
  | movLD
  | movLE
  | movLH
  | movLL
  | movLM
  | movLA
  | movMB
  | movMC
  | movMD
  | movME
  | movMH
  | movML
  | hlt
  | movMA
  | movAB
  | movAC
  | movAD
  | movAE
  | movAH
  | movAL
  | movAM
  | movAA
  | addB
  | addC
  | addD
  | addE
  | addH
  | addL
  | addM
  | addA
  | adcB
  | adcC
  | adcD
  | adcE
  | adcH
  | adcL
  | adcM
  | adcA
  | subB
  | subC
  | subD
  | subE
  | subH
  | subL
  | subM
  | subA
  | sbbB
  | sbbC
  | sbbD
  | sbbE
  | sbbH
  | sbbL
  | sbbM
  | sbbA
  | anaB
  | anaC
  | anaD
  | anaE
  | anaH
  | anaL
  | anaM
  | anaA
  | xraB
  | xraC
  | xraD
  | xraE
  | xraH
  | xraL
  | xraM
  | xraA
  | oraB
  | oraC
  | oraD
  | oraE
  | oraH
  | oraL
  | oraM
  | oraA
  | cmpB
  | cmpC
  | cmpD
  | cmpE
  | cmpH
  | cmpL
  | cmpM
  | cmpA
  | rnz
  | popB
  | jnz (a16 : Word)
  | jmp (a16 : Word)
  | cnz (a16 : Word)
  | pushB
  | adi (d8 : Byte)
  | rst0
  | rz
  | ret
  | jz (a16 : Word)
  | cz (a16 : Word)
  | call (a16 : Word)
  | aci (d8 : Byte)
  | rst1
  | rnc
  | popD
  | jnc (a16 : Word)
  | outPort (d8 : Byte)
  | cnc (a16 : Word)
  | pushD
  | sui (d8 : Byte)
  | rst2
  | rc
  | jc (a16 : Word)
  | inPort (d8 : Byte)
  | cc (a16 : Word)
  | sbi (d8 : Byte)
  | rst3
  | rpo
  | popH
  | jpo (a16 : Word)
  | xthl
  | cpo (a16 : Word)
  | pushH
  | ani (d8 : Byte)
  | rst4
  | rpe
  | pchl
  | jpe (a16 : Word)
  | xchg
  | cpe (a16 : Word)
  | xri (d8 : Byte)
  | rst5
  | rp
  | popPsw
  | jp (a16 : Word)
  | di
  | cp (a16 : Word)
  | pushPsw
  | ori (d8 : Byte)
  | rst6
  | rm
  | sphl
  | jm (a16 : Word)
  | ei
  | cm (a16 : Word)
  | cpi (d8 : Byte)
  | rst7
  deriving DecidableEq, Repr

end Sys2Proof
end

