-- ==== Sys2Proof/Decode.lean ====
section
/-! DEFINITION. The decoder, from the bit fields of the opcode byte (30_encoding.md R84 to R90), and after it the encoder,
from the bytes of spec/opcode_table.json. -/

namespace Sys2Proof

/-! ## The instruction of each family that a selector names (30_encoding.md R90) -/

namespace Fam

/-- `01dddsss`, both codes registers. -/
def movRR : Reg8 → Reg8 → Instr
  | .b, .b => .movBB | .b, .c => .movBC | .b, .d => .movBD | .b, .e => .movBE | .b, .h => .movBH | .b, .l => .movBL | .b, .a => .movBA
  | .c, .b => .movCB | .c, .c => .movCC | .c, .d => .movCD | .c, .e => .movCE | .c, .h => .movCH | .c, .l => .movCL | .c, .a => .movCA
  | .d, .b => .movDB | .d, .c => .movDC | .d, .d => .movDD | .d, .e => .movDE | .d, .h => .movDH | .d, .l => .movDL | .d, .a => .movDA
  | .e, .b => .movEB | .e, .c => .movEC | .e, .d => .movED | .e, .e => .movEE | .e, .h => .movEH | .e, .l => .movEL | .e, .a => .movEA
  | .h, .b => .movHB | .h, .c => .movHC | .h, .d => .movHD | .h, .e => .movHE | .h, .h => .movHH | .h, .l => .movHL | .h, .a => .movHA
  | .l, .b => .movLB | .l, .c => .movLC | .l, .d => .movLD | .l, .e => .movLE | .l, .h => .movLH | .l, .l => .movLL | .l, .a => .movLA
  | .a, .b => .movAB | .a, .c => .movAC | .a, .d => .movAD | .a, .e => .movAE | .a, .h => .movAH | .a, .l => .movAL | .a, .a => .movAA

/-- `01ddd110`. -/
def movRM : Reg8 → Instr
  | .b => .movBM | .c => .movCM | .d => .movDM | .e => .movEM | .h => .movHM | .l => .movLM | .a => .movAM

/-- `01110sss`. -/
def movMR : Reg8 → Instr
  | .b => .movMB | .c => .movMC | .d => .movMD | .e => .movME | .h => .movMH | .l => .movML | .a => .movMA

/-- `00ddd110 d8`. -/
def mvi (d8 : Byte) : R8Sel → Instr
  | .reg .b => .mviB d8 | .reg .c => .mviC d8 | .reg .d => .mviD d8 | .reg .e => .mviE d8 | .reg .h => .mviH d8 | .reg .l => .mviL d8 | .reg .a => .mviA d8 | .m => .mviM d8

/-- `00pp0001 lo hi`. -/
def lxi (d16 : Word) : RegPair → Instr
  | .bc => .lxiB d16 | .de => .lxiD d16 | .hl => .lxiH d16 | .sp => .lxiSp d16

/-- `00pp0011`. -/
def inx : RegPair → Instr
  | .bc => .inxB | .de => .inxD | .hl => .inxH | .sp => .inxSp

/-- `00pp1011`. -/
def dcx : RegPair → Instr
  | .bc => .dcxB | .de => .dcxD | .hl => .dcxH | .sp => .dcxSp

/-- `00pp1001`. -/
def dad : RegPair → Instr
  | .bc => .dadB | .de => .dadD | .hl => .dadH | .sp => .dadSp

/-- `000p0010`. -/
def stax : IndexPair → Instr
  | .bc => .staxB | .de => .staxD

/-- `000p1010`. -/
def ldax : IndexPair → Instr
  | .bc => .ldaxB | .de => .ldaxD

/-- `00ddd100`. -/
def inr : R8Sel → Instr
  | .reg .b => .inrB | .reg .c => .inrC | .reg .d => .inrD | .reg .e => .inrE | .reg .h => .inrH | .reg .l => .inrL | .reg .a => .inrA | .m => .inrM

/-- `00ddd101`. -/
def dcr : R8Sel → Instr
  | .reg .b => .dcrB | .reg .c => .dcrC | .reg .d => .dcrD | .reg .e => .dcrE | .reg .h => .dcrH | .reg .l => .dcrL | .reg .a => .dcrA | .m => .dcrM

/-- `10aaasss`. -/
def alu : AluOp → R8Sel → Instr
  | .add, .reg .b => .addB | .add, .reg .c => .addC | .add, .reg .d => .addD | .add, .reg .e => .addE | .add, .reg .h => .addH | .add, .reg .l => .addL | .add, .reg .a => .addA | .add, .m => .addM
  | .adc, .reg .b => .adcB | .adc, .reg .c => .adcC | .adc, .reg .d => .adcD | .adc, .reg .e => .adcE | .adc, .reg .h => .adcH | .adc, .reg .l => .adcL | .adc, .reg .a => .adcA | .adc, .m => .adcM
  | .sub, .reg .b => .subB | .sub, .reg .c => .subC | .sub, .reg .d => .subD | .sub, .reg .e => .subE | .sub, .reg .h => .subH | .sub, .reg .l => .subL | .sub, .reg .a => .subA | .sub, .m => .subM
  | .sbb, .reg .b => .sbbB | .sbb, .reg .c => .sbbC | .sbb, .reg .d => .sbbD | .sbb, .reg .e => .sbbE | .sbb, .reg .h => .sbbH | .sbb, .reg .l => .sbbL | .sbb, .reg .a => .sbbA | .sbb, .m => .sbbM
  | .ana, .reg .b => .anaB | .ana, .reg .c => .anaC | .ana, .reg .d => .anaD | .ana, .reg .e => .anaE | .ana, .reg .h => .anaH | .ana, .reg .l => .anaL | .ana, .reg .a => .anaA | .ana, .m => .anaM
  | .xra, .reg .b => .xraB | .xra, .reg .c => .xraC | .xra, .reg .d => .xraD | .xra, .reg .e => .xraE | .xra, .reg .h => .xraH | .xra, .reg .l => .xraL | .xra, .reg .a => .xraA | .xra, .m => .xraM
  | .ora, .reg .b => .oraB | .ora, .reg .c => .oraC | .ora, .reg .d => .oraD | .ora, .reg .e => .oraE | .ora, .reg .h => .oraH | .ora, .reg .l => .oraL | .ora, .reg .a => .oraA | .ora, .m => .oraM
  | .cmp, .reg .b => .cmpB | .cmp, .reg .c => .cmpC | .cmp, .reg .d => .cmpD | .cmp, .reg .e => .cmpE | .cmp, .reg .h => .cmpH | .cmp, .reg .l => .cmpL | .cmp, .reg .a => .cmpA | .cmp, .m => .cmpM

/-- `11aaa110 d8`: the immediate forms in the same order (30_encoding.md R87). -/
def aluImm (d8 : Byte) : AluOp → Instr
  | .add => .adi d8 | .adc => .aci d8 | .sub => .sui d8 | .sbb => .sbi d8 | .ana => .ani d8 | .xra => .xri d8 | .ora => .ori d8 | .cmp => .cpi d8

/-- `11ccc010 lo hi`. -/
def jcc (a16 : Word) : Cond → Instr
  | .nz => .jnz a16 | .z => .jz a16 | .nc => .jnc a16 | .c => .jc a16 | .po => .jpo a16 | .pe => .jpe a16 | .p => .jp a16 | .m => .jm a16

/-- `11ccc100 lo hi`. -/
def ccc (a16 : Word) : Cond → Instr
  | .nz => .cnz a16 | .z => .cz a16 | .nc => .cnc a16 | .c => .cc a16 | .po => .cpo a16 | .pe => .cpe a16 | .p => .cp a16 | .m => .cm a16

/-- `11ccc000`. -/
def rcc : Cond → Instr
  | .nz => .rnz | .z => .rz | .nc => .rnc | .c => .rc | .po => .rpo | .pe => .rpe | .p => .rp | .m => .rm

/-- `11pp0101`. -/
def push : StackPair → Instr
  | .bc => .pushB | .de => .pushD | .hl => .pushH | .psw => .pushPsw

/-- `11pp0001`. -/
def pop : StackPair → Instr
  | .bc => .popB | .de => .popD | .hl => .popH | .psw => .popPsw

/-- `11nnn111`, by the restart number (30_encoding.md R89). -/
def rst (n : BitVec 3) : Instr :=
  match n.toNat with
  | 0 => .rst0 | 1 => .rst1 | 2 => .rst2 | 3 => .rst3 | 4 => .rst4 | 5 => .rst5 | 6 => .rst6 | _ => .rst7

end Fam

/-! ## The fields of the opcode byte -/

/-- `op[5:3]` (30_encoding.md R84). -/
def fieldD (op : Byte) : BitVec 3 := op.extractLsb' 3 3

/-- `op[2:0]` (30_encoding.md R84). -/
def fieldS (op : Byte) : BitVec 3 := op.extractLsb' 0 3

/-- `op[5:4]` (30_encoding.md R84, R85). -/
def fieldP (op : Byte) : BitVec 2 := op.extractLsb' 4 2

/-- `op[7:6]` (30_encoding.md R84). -/
def fieldG (op : Byte) : BitVec 2 := op.extractLsb' 6 2

/-- R8 by its code (30_encoding.md R86). -/
def R8Sel.ofCode (c : BitVec 3) : R8Sel :=
  match c.toNat with
  | 0 => .reg .b | 1 => .reg .c | 2 => .reg .d | 3 => .reg .e | 4 => .reg .h | 5 => .reg .l | 6 => .m | _ => .reg .a

/-- RP by its code (30_encoding.md R85). -/
def RegPair.ofCode (c : BitVec 2) : RegPair :=
  match c.toNat with
  | 0 => .bc | 1 => .de | 2 => .hl | _ => .sp

/-- RP of `PUSH` and `POP` by its code (30_encoding.md R85). -/
def StackPair.ofCode (c : BitVec 2) : StackPair :=
  match c.toNat with
  | 0 => .bc | 1 => .de | 2 => .hl | _ => .psw

/-- ALU by its code (30_encoding.md R87). -/
def AluOp.ofCode (c : BitVec 3) : AluOp :=
  match c.toNat with
  | 0 => .add | 1 => .adc | 2 => .sub | 3 => .sbb | 4 => .ana | 5 => .xra | 6 => .ora | _ => .cmp

/-- CC by its code (30_encoding.md R88). -/
def Cond.ofCode (c : BitVec 3) : Cond :=
  match c.toNat with
  | 0 => .nz | 1 => .z | 2 => .nc | 3 => .c | 4 => .po | 5 => .pe | 6 => .p | _ => .m

/-! ## Decoding -/

/-- The opcodes `00xxxxxx` (30_encoding.md R90); `d8` is the second byte, `w` the operand word. -/
def decodeGroup0 (op d8 : Byte) (w : Word) : Instr :=
  match (fieldS op).toNat with
  | 0 => if fieldD op = 0 then .nop else .undefinedOpcode op
  | 1 => if op.getLsbD 3 then Fam.dad (.ofCode (fieldP op)) else Fam.lxi w (.ofCode (fieldP op))
  | 2 =>
    match (fieldD op).toNat with
    | 0 => Fam.stax .bc | 1 => Fam.ldax .bc | 2 => Fam.stax .de | 3 => Fam.ldax .de
    | 4 => .shld w | 5 => .lhld w | 6 => .sta w | _ => .lda w
  | 3 => if op.getLsbD 3 then Fam.dcx (.ofCode (fieldP op)) else Fam.inx (.ofCode (fieldP op))
  | 4 => Fam.inr (.ofCode (fieldD op))
  | 5 => Fam.dcr (.ofCode (fieldD op))
  | 6 => Fam.mvi d8 (.ofCode (fieldD op))
  | _ =>
    match (fieldD op).toNat with
    | 0 => .rlc | 1 => .rrc | 2 => .ral | 3 => .rar | 4 => .daa | 5 => .cma | 6 => .stc | _ => .cmc

/-- The opcodes `01dddsss`: the `MOV M,M` position is `HLT` (30_encoding.md R90). -/
def decodeGroup1 (op : Byte) : Instr :=
  match R8Sel.ofCode (fieldD op), R8Sel.ofCode (fieldS op) with
  | .reg dst, .reg src => Fam.movRR dst src
  | .reg dst, .m => Fam.movRM dst
  | .m, .reg src => Fam.movMR src
  | .m, .m => .hlt

/-- The opcodes `11xxxxxx` (30_encoding.md R90); `d8` is the second byte, `w` the operand word. -/
def decodeGroup3 (op d8 : Byte) (w : Word) : Instr :=
  match (fieldS op).toNat with
  | 0 => Fam.rcc (.ofCode (fieldD op))
  | 1 =>
    if op.getLsbD 3 then
      match (fieldP op).toNat with
      | 0 => .ret | 1 => .undefinedOpcode op | 2 => .pchl | _ => .sphl
    else Fam.pop (.ofCode (fieldP op))
  | 2 => Fam.jcc w (.ofCode (fieldD op))
  | 3 =>
    match (fieldD op).toNat with
    | 0 => .jmp w | 1 => .undefinedOpcode op | 2 => .outPort d8 | 3 => .inPort d8
    | 4 => .xthl | 5 => .xchg | 6 => .di | _ => .ei
  | 4 => Fam.ccc w (.ofCode (fieldD op))
  | 5 =>
    if op.getLsbD 3 then
      match (fieldP op).toNat with
      | 0 => .call w | _ => .undefinedOpcode op
    else Fam.push (.ofCode (fieldP op))
  | 6 => Fam.aluImm d8 (.ofCode (fieldD op))
  | _ => Fam.rst (fieldD op)

/-- The instruction of opcode `op` with operand bytes `b2` and `b3` (those its length does not reach play no part). -/
def decodeOp (op b2 b3 : Byte) : Instr :=
  match (fieldG op).toNat with
  | 0 => decodeGroup0 op b2 (pair b3 b2)
  | 1 => decodeGroup1 op
  | 2 => Fam.alu (.ofCode (fieldD op)) (.ofCode (fieldS op))
  | _ => decodeGroup3 op b2 (pair b3 b2)

/-- How many operand bytes follow the opcode, "the opcode ... alone decides the length" (30_encoding.md R84). -/
def operandCount (op : Byte) : Nat :=
  match (fieldG op).toNat with
  | 0 =>
    match (fieldS op).toNat with
    | 1 => if op.getLsbD 3 then 0 else 2
    | 2 => if op.getLsbD 5 then 2 else 0
    | 6 => 1
    | _ => 0
  | 1 => 0
  | 2 => 0
  | _ =>
    match (fieldS op).toNat with
    | 2 => 2
    | 3 => match (fieldD op).toNat with | 0 => 2 | 2 => 1 | 3 => 1 | _ => 0
    | 4 => 2
    | 5 => if op = 0xCD then 2 else 0
    | 6 => 1
    | _ => 0

/-- Why a list of bytes holds no instruction. Every first byte is an instruction (an undefined one is
`Instr.undefinedOpcode`), so only a list that ends too early is refused. -/
inductive DecodeError where
  /-- There is no opcode byte. -/
  | noOpcode
  /-- The list ends inside the operands of `op`. -/
  | missingOperand (op : Byte)
  deriving DecidableEq, Repr

/-- The instruction at the head of a list of bytes, with the rest of the list. -/
def decode : List Byte → Except DecodeError (Instr × List Byte)
  | [] => .error .noOpcode
  | op :: rest =>
    match operandCount op, rest with
    | 0, rest => .ok (decodeOp op 0 0, rest)
    | 1, b2 :: rest => .ok (decodeOp op b2 0, rest)
    | _ + 2, b2 :: b3 :: rest => .ok (decodeOp op b2 b3, rest)
    | _, _ => .error (.missingOperand op)

/-- Byte `i` of a number that holds an instruction's bits, bit 0 the least significant bit of the first byte. -/
def tableByte (nbits w i : Nat) : Byte := BitVec.ofNat 8 (w % 2 ^ nbits / 2 ^ (8 * i))

/-- The bytes of a table word, up to the longest instruction (three bytes, 30_encoding.md R84). -/
def tableBytes (nbits w : Nat) : List Byte :=
  [tableByte nbits w 0, tableByte nbits w 1, tableByte nbits w 2]

/-- The instruction the decoder reads from the bits `w` numbered as spec/opcode_table.json numbers them. -/
def decodeTableWord (nbits w : Nat) : Option Instr :=
  match decode (tableBytes nbits w) with
  | .ok (i, _) => some i
  | .error _ => none

/-! ## Encoding -/

/-- The bytes of an instruction: the opcode byte of its row of spec/opcode_table.json, then the operand bytes in the order
of the row's "operand_bytes" (30_encoding.md R84). -/
def encode : Instr → List Byte
  | .nop => [0x00] | .lxiB d16 => [0x01, lo8 d16, hi8 d16] | .staxB => [0x02] | .inxB => [0x03] | .inrB => [0x04]
  | .dcrB => [0x05] | .mviB d8 => [0x06, d8] | .rlc => [0x07] | .undefinedOpcode op => [op] | .dadB => [0x09]
  | .ldaxB => [0x0A] | .dcxB => [0x0B] | .inrC => [0x0C] | .dcrC => [0x0D] | .mviC d8 => [0x0E, d8] | .rrc => [0x0F]
  | .lxiD d16 => [0x11, lo8 d16, hi8 d16] | .staxD => [0x12] | .inxD => [0x13] | .inrD => [0x14] | .dcrD => [0x15]
  | .mviD d8 => [0x16, d8] | .ral => [0x17] | .dadD => [0x19] | .ldaxD => [0x1A] | .dcxD => [0x1B] | .inrE => [0x1C]
  | .dcrE => [0x1D] | .mviE d8 => [0x1E, d8] | .rar => [0x1F] | .lxiH d16 => [0x21, lo8 d16, hi8 d16]
  | .shld a16 => [0x22, lo8 a16, hi8 a16] | .inxH => [0x23] | .inrH => [0x24] | .dcrH => [0x25]
  | .mviH d8 => [0x26, d8] | .daa => [0x27] | .dadH => [0x29] | .lhld a16 => [0x2A, lo8 a16, hi8 a16]
  | .dcxH => [0x2B] | .inrL => [0x2C] | .dcrL => [0x2D] | .mviL d8 => [0x2E, d8] | .cma => [0x2F]
  | .lxiSp d16 => [0x31, lo8 d16, hi8 d16] | .sta a16 => [0x32, lo8 a16, hi8 a16] | .inxSp => [0x33]
  | .inrM => [0x34] | .dcrM => [0x35] | .mviM d8 => [0x36, d8] | .stc => [0x37] | .dadSp => [0x39]
  | .lda a16 => [0x3A, lo8 a16, hi8 a16] | .dcxSp => [0x3B] | .inrA => [0x3C] | .dcrA => [0x3D]
  | .mviA d8 => [0x3E, d8] | .cmc => [0x3F] | .movBB => [0x40] | .movBC => [0x41] | .movBD => [0x42]
  | .movBE => [0x43] | .movBH => [0x44] | .movBL => [0x45] | .movBM => [0x46] | .movBA => [0x47] | .movCB => [0x48]
  | .movCC => [0x49] | .movCD => [0x4A] | .movCE => [0x4B] | .movCH => [0x4C] | .movCL => [0x4D] | .movCM => [0x4E]
  | .movCA => [0x4F] | .movDB => [0x50] | .movDC => [0x51] | .movDD => [0x52] | .movDE => [0x53] | .movDH => [0x54]
  | .movDL => [0x55] | .movDM => [0x56] | .movDA => [0x57] | .movEB => [0x58] | .movEC => [0x59] | .movED => [0x5A]
  | .movEE => [0x5B] | .movEH => [0x5C] | .movEL => [0x5D] | .movEM => [0x5E] | .movEA => [0x5F] | .movHB => [0x60]
  | .movHC => [0x61] | .movHD => [0x62] | .movHE => [0x63] | .movHH => [0x64] | .movHL => [0x65] | .movHM => [0x66]
  | .movHA => [0x67] | .movLB => [0x68] | .movLC => [0x69] | .movLD => [0x6A] | .movLE => [0x6B] | .movLH => [0x6C]
  | .movLL => [0x6D] | .movLM => [0x6E] | .movLA => [0x6F] | .movMB => [0x70] | .movMC => [0x71] | .movMD => [0x72]
  | .movME => [0x73] | .movMH => [0x74] | .movML => [0x75] | .hlt => [0x76] | .movMA => [0x77] | .movAB => [0x78]
  | .movAC => [0x79] | .movAD => [0x7A] | .movAE => [0x7B] | .movAH => [0x7C] | .movAL => [0x7D] | .movAM => [0x7E]
  | .movAA => [0x7F] | .addB => [0x80] | .addC => [0x81] | .addD => [0x82] | .addE => [0x83] | .addH => [0x84]
  | .addL => [0x85] | .addM => [0x86] | .addA => [0x87] | .adcB => [0x88] | .adcC => [0x89] | .adcD => [0x8A]
  | .adcE => [0x8B] | .adcH => [0x8C] | .adcL => [0x8D] | .adcM => [0x8E] | .adcA => [0x8F] | .subB => [0x90]
  | .subC => [0x91] | .subD => [0x92] | .subE => [0x93] | .subH => [0x94] | .subL => [0x95] | .subM => [0x96]
  | .subA => [0x97] | .sbbB => [0x98] | .sbbC => [0x99] | .sbbD => [0x9A] | .sbbE => [0x9B] | .sbbH => [0x9C]
  | .sbbL => [0x9D] | .sbbM => [0x9E] | .sbbA => [0x9F] | .anaB => [0xA0] | .anaC => [0xA1] | .anaD => [0xA2]
  | .anaE => [0xA3] | .anaH => [0xA4] | .anaL => [0xA5] | .anaM => [0xA6] | .anaA => [0xA7] | .xraB => [0xA8]
  | .xraC => [0xA9] | .xraD => [0xAA] | .xraE => [0xAB] | .xraH => [0xAC] | .xraL => [0xAD] | .xraM => [0xAE]
  | .xraA => [0xAF] | .oraB => [0xB0] | .oraC => [0xB1] | .oraD => [0xB2] | .oraE => [0xB3] | .oraH => [0xB4]
  | .oraL => [0xB5] | .oraM => [0xB6] | .oraA => [0xB7] | .cmpB => [0xB8] | .cmpC => [0xB9] | .cmpD => [0xBA]
  | .cmpE => [0xBB] | .cmpH => [0xBC] | .cmpL => [0xBD] | .cmpM => [0xBE] | .cmpA => [0xBF] | .rnz => [0xC0]
  | .popB => [0xC1] | .jnz a16 => [0xC2, lo8 a16, hi8 a16] | .jmp a16 => [0xC3, lo8 a16, hi8 a16]
  | .cnz a16 => [0xC4, lo8 a16, hi8 a16] | .pushB => [0xC5] | .adi d8 => [0xC6, d8] | .rst0 => [0xC7]
  | .rz => [0xC8] | .ret => [0xC9] | .jz a16 => [0xCA, lo8 a16, hi8 a16] | .cz a16 => [0xCC, lo8 a16, hi8 a16]
  | .call a16 => [0xCD, lo8 a16, hi8 a16] | .aci d8 => [0xCE, d8] | .rst1 => [0xCF] | .rnc => [0xD0]
  | .popD => [0xD1] | .jnc a16 => [0xD2, lo8 a16, hi8 a16] | .outPort d8 => [0xD3, d8]
  | .cnc a16 => [0xD4, lo8 a16, hi8 a16] | .pushD => [0xD5] | .sui d8 => [0xD6, d8] | .rst2 => [0xD7]
  | .rc => [0xD8] | .jc a16 => [0xDA, lo8 a16, hi8 a16] | .inPort d8 => [0xDB, d8]
  | .cc a16 => [0xDC, lo8 a16, hi8 a16] | .sbi d8 => [0xDE, d8] | .rst3 => [0xDF] | .rpo => [0xE0] | .popH => [0xE1]
  | .jpo a16 => [0xE2, lo8 a16, hi8 a16] | .xthl => [0xE3] | .cpo a16 => [0xE4, lo8 a16, hi8 a16] | .pushH => [0xE5]
  | .ani d8 => [0xE6, d8] | .rst4 => [0xE7] | .rpe => [0xE8] | .pchl => [0xE9]
  | .jpe a16 => [0xEA, lo8 a16, hi8 a16] | .xchg => [0xEB] | .cpe a16 => [0xEC, lo8 a16, hi8 a16]
  | .xri d8 => [0xEE, d8] | .rst5 => [0xEF] | .rp => [0xF0] | .popPsw => [0xF1]
  | .jp a16 => [0xF2, lo8 a16, hi8 a16] | .di => [0xF3] | .cp a16 => [0xF4, lo8 a16, hi8 a16] | .pushPsw => [0xF5]
  | .ori d8 => [0xF6, d8] | .rst6 => [0xF7] | .rm => [0xF8] | .sphl => [0xF9] | .jm a16 => [0xFA, lo8 a16, hi8 a16]
  | .ei => [0xFB] | .cm a16 => [0xFC, lo8 a16, hi8 a16] | .cpi d8 => [0xFE, d8] | .rst7 => [0xFF]

end Sys2Proof
end

