-- ==== Sys2Proof/Config.lean ====
section
/-! DEFINITION. What an implementation fixes: the constants of 00_scope.md R4 and the parameters of R5. -/

namespace Sys2Proof

/-- `N_SLOTS = 18` (00_scope.md R4). -/
def nSlots : Nat := 18

/-- `BAD_U8 = 0xFF`, the byte a read of an unanswered address returns (00_scope.md R4, 20_memory.md R48). -/
def badU8 : Byte := 0xFF

/-- The three bytes a card supplies when its interrupt is accepted (60_exceptions.md R270). -/
structure IrqInst where
  b0 : Byte
  b1 : Byte
  b2 : Byte
  deriving DecidableEq, Repr, Inhabited

/-- `ACIA_IRQ_INST` (00_scope.md R5, OPEN): no value is chosen, so it has no body. Log 3. -/
opaque Config.aciaIrqInst : IrqInst

/-- `ACIA_BASE_CLOCK` (00_scope.md R5, OPEN): no value is chosen, so it has no body. Log 3. -/
opaque Config.aciaBaseClock : Nat

/-- The parameters of 00_scope.md R5 that have a default, with that default. They are configuration: the state carries
them (log 1) and no step writes them. -/
structure Params where
  /-- `START_PC`, the value of `pc` after reset. -/
  startPc : Word := 0x0000
  /-- `PSEUDO_BDOS`: the shim of 60_exceptions.md R285 exists. -/
  pseudoBdos : Bool := false
  /-- `IRQ_ACCEPT_PUSHES_PC` (60_exceptions.md R274). -/
  irqAcceptPushesPc : Bool := true
  /-- `IRQ_WAKES_HALT` (60_exceptions.md R275). -/
  irqWakesHalt : Bool := false
  /-- `ACIA_IRQ_WIRED` (50_acia_6850.md R237). -/
  aciaIrqWired : Bool := false
  /-- `ACIA_RDRF_CLEAR_ON_READ` (50_acia_6850.md R228). -/
  aciaRdrfClearOnRead : Bool := false
  /-- The CPU is bound to the flat-array bus variant, on which port I/O is a fault (60_exceptions.md R264). Log 10. -/
  flatArrayBus : Bool := false
  deriving DecidableEq, Repr

/-- How many bytes of a string function 9 of the shim may read before the step counts as never ending: one for each
address of the memory space (93_implementation_defined.md U18). Log 9. -/
def bdosStringBound : Nat := 65536

end Sys2Proof
end

