-- ==== Sys2Proof/Machine/State.lean ====
section
/-! DEFINITION. The state of the machine as plain data (10_state.md), the reasons a step can stop, and the state after
reset. -/

namespace Sys2Proof.Machine

/-! ## The register file -/

/-- The "six 16-bit cells `AF, BC, DE, HL, SP, PC`" (10_state.md R10). -/
structure Regs where
  af : Word
  bc : Word
  de : Word
  hl : Word
  sp : Word
  pc : Word
  deriving DecidableEq, Repr

/-- The name of a cell of the register file (10_state.md R10). -/
inductive Reg16 where
  | af | bc | de | hl | sp | pc
  deriving DecidableEq, Repr

/-- The five flags of `F` (10_state.md R13). -/
inductive Flag where
  | c | p | ac | z | s
  deriving DecidableEq, Repr

/-! ## Cards -/

/-- The bytes a data card holds, as (offset from `start_adr`, byte) pairs: offsets strictly rising, no entry equal to the
card's fill byte, which is what an unlisted offset reads as (20_memory.md R46, log 4). -/
abbrev Memory := List Host.Cell

/-- A data card: RAM when `writeLocked` is false, ROM when it is true (10_state.md R23, 20_memory.md R46). -/
structure DataCard where
  startAdr : Word
  /-- `adr_range`, equal to the card's capacity. -/
  adrRange : Nat
  isIo : Bool
  writeLocked : Bool
  /-- `FILL_BYTE` (00_scope.md R5, OPEN: a parameter of each card). -/
  fill : Byte
  mem : Memory
  deriving DecidableEq, Repr

/-- The clock divisor (50_acia_6850.md R222). -/
inductive Divisor where
  | div1 | div16 | div64
  deriving DecidableEq, Repr

/-- Data bits of the word format (50_acia_6850.md R229). -/
inductive DataBits where
  | seven | eight
  deriving DecidableEq, Repr

/-- Parity of the word format (50_acia_6850.md R229). -/
inductive Parity where
  | none | even | odd
  deriving DecidableEq, Repr

/-- Stop bits of the word format (50_acia_6850.md R229). -/
inductive StopBits where
  | one | two
  deriving DecidableEq, Repr

/-- The word format last selected (10_state.md R24, 50_acia_6850.md R229). -/
structure WordFormat where
  dataBits : DataBits
  parity : Parity
  stopBits : StopBits
  deriving DecidableEq, Repr

/-- What the endpoint answers when the card asks `poll()` and, after a yes, `getch()` (50_acia_6850.md R225, R226, R238).
Log 6. -/
inductive RxReply where
  /-- `poll()` answers no. -/
  | idle
  /-- `poll()` answers yes and `getch()` gives `b`. -/
  | byte (b : Byte)
  /-- The endpoint fails inside `poll()` or `getch()`. -/
  | fail
  deriving DecidableEq, Repr

/-- What the card has given the endpoint (10_state.md R25). -/
inductive EndpointEvent where
  | put (b : Byte)
  | sendBreak
  deriving DecidableEq, Repr

/-- A serial card: the 6850 registers, lines and format (10_state.md R24), and its endpoint (10_state.md R25). -/
structure SerialCard where
  startAdr : Word
  isIo : Bool
  status : Byte
  control : Byte
  rxData : Byte
  txData : Byte
  divisor : Divisor
  rts : BitVec 1
  format : WordFormat
  /-- What the endpoint answers to the polls still to come, oldest first; when it is used up there is no byte. Log 6. -/
  rx : List RxReply
  /-- Whether each `putch` or `send_break` still to come fails; when it is used up none fails. Log 6. -/
  txFail : List Bool
  /-- The output log, oldest first. -/
  log : List EndpointEvent
  deriving DecidableEq, Repr

/-- One reaction of an `Other` card: the byte it gives if it is being read, and its request line and instruction from
then on (20_memory.md R47, 60_exceptions.md R270). Log 7. -/
structure OtherReply where
  data : Byte
  irq : Bool
  inst : IrqInst
  deriving DecidableEq, Repr

/-- An `Other` card: a device whose behaviour the model takes as a parameter (20_memory.md R47). Log 7. -/
structure OtherCard where
  startAdr : Word
  adrRange : Nat
  isIo : Bool
  /-- The level of `is_irq()`. -/
  irq : Bool
  /-- What `get_irq()` answers. -/
  inst : IrqInst
  /-- The byte a read gives when `replies` is used up. -/
  idle : Byte
  /-- The card's reactions still to come, one for each time it is accessed or asked. -/
  replies : List OtherReply
  deriving DecidableEq, Repr

/-- A card of one of the kinds of 00_scope.md R5. -/
inductive Card where
  | data (c : DataCard)
  | serial (c : SerialCard)
  | other (c : OtherCard)
  deriving DecidableEq, Repr

/-- A bus slot that holds a card (10_state.md R22). -/
structure Slot where
  card : Card
  allowConflict : Bool
  deriving DecidableEq, Repr

/-! ## The machine -/

/-- The state of the machine: register file, CPU control state (10_state.md R20), interrupt operand buffer (R21), bus slots
with their cards (R22 to R25), print sink (R26), and the parameters, which no step writes (00_scope.md R5, log 1). -/
structure State where
  regs : Regs
  halted : Bool
  interruptsEnabled : Bool
  justBooted : Bool
  /-- The interrupt operand bytes still to fetch, empty when the fetch source is memory (10_state.md R21, log 11). -/
  irqQueue : List Byte
  /-- The 18 slots in slot order. -/
  slots : List (Option Slot)
  sink : List Byte
  params : Params
  deriving DecidableEq, Repr

/-- Why a step ends in a fault (60_exceptions.md R260, R266). Each carries its info and the state at the fault, in which the
changes made before it stay (log 8). -/
inductive Fault where
  /-- `UnknownOpcode(op)` (60_exceptions.md R261): raised by the meaning of the twelve undefined bytes. Safe: the spec
  makes these bytes fatal. -/
  | unknownOpcode (op : Byte) (at_ : State)
  /-- `InvalidBdosCall(C)` (60_exceptions.md R262): raised by the pseudo-BDOS hook at `pc = 0x0005`. Safe: the spec's own
  fault. -/
  | invalidBdosCall (c : Byte) (at_ : State)
  /-- `EndpointIoError` (60_exceptions.md R265): raised by an access that reaches a serial card whose endpoint fails.
  Safe: the spec's own fault. -/
  | endpointIoError (at_ : State)
  /-- `UnsupportedPortIo` (60_exceptions.md R264): raised by `IN` and `OUT` on the flat-array bus variant only. Safe: the
  spec's own fault. -/
  | unsupportedPortIo (at_ : State)
  /-- Function 9 of the pseudo-BDOS shim read `bdosStringBound` bytes without a `$` (93_implementation_defined.md U18):
  raised by the hook. Safe: the step of the spec goes on, this one stops (log 9). -/
  | bdosStringUnterminated (at_ : State)
  deriving DecidableEq, Repr

/-- Why a step has no meaning. -/
inductive Refusal where
  /-- An instruction the model gives no meaning; raised by `exec` only. Safe: the run stops. No arm of `exec` raises it. -/
  | notModelled (mnemonic : String)
  deriving DecidableEq, Repr

/-- A step's outcome. -/
abbrev Out := Host.Outcome State Fault Refusal

/-- The result of an action that may fault: a value and the state after it, or the fault. -/
abbrev Act (α : Type) := Except Fault (α × State)

/-- The register file after a CPU reset with the default `START_PC` (10_state.md R30): `AF = 0x0002`, all others 0. -/
def Regs.reset : Regs :=
  { af := 0x0002, bc := 0x0000, de := 0x0000, hl := 0x0000, sp := 0x0000, pc := 0x0000 }

/-- The machine right after reset with every parameter at its default of 00_scope.md R5: the registers and control bits of
10_state.md R30, the slots all empty, nothing printed. Log 2. -/
def State.reset : State where
  regs := Regs.reset
  halted := false
  interruptsEnabled := false
  justBooted := true
  irqQueue := []
  slots := List.replicate nSlots none
  sink := []
  params := {}

end Sys2Proof.Machine
end

