-- ==== Sys2Proof/Machine/Cards.lean ====
section
/-! DEFINITION. Memory in its canonical form, data cards (20_memory.md R40, R46) and `Other` cards (R47). -/

namespace Sys2Proof.Machine

/-! ## Memory -/

/-- The byte at offset `i`; an unlisted offset reads as `dflt`. -/
def Memory.read (dflt : Byte) : Memory → Nat → Byte
  | [], _ => dflt
  | (k, v) :: rest, i => if i = k then v else Memory.read dflt rest i

/-- Put `v` at offset `i`, keeping the offsets rising. -/
def Memory.insert (i : Nat) (v : Byte) : Memory → Memory
  | [] => [(i, v)]
  | (k, w) :: rest =>
    if i < k then (i, v) :: (k, w) :: rest
    else if i = k then (i, v) :: rest
    else (k, w) :: Memory.insert i v rest

/-- Write `v` at offset `i`: writing what an unlisted offset reads as removes the entry. -/
def Memory.write (dflt : Byte) (m : Memory) (i : Nat) (v : Byte) : Memory :=
  if v = dflt then m.filter (fun c => c.1 ≠ i) else Memory.insert i v m

/-- The canonical form: offsets strictly rising and below the capacity, no entry equal to `dflt`. -/
abbrev Memory.wf (dflt : Byte) (capacity : Nat) (m : Memory) : Prop :=
  m.Pairwise (fun x y => x.1 < y.1) ∧ ∀ c ∈ m, c.1 < capacity ∧ c.2 ≠ dflt

/-- The memory of `capacity` bytes that holds `bytes` from offset 0 and `dflt` elsewhere. -/
def Memory.ofBytes (dflt : Byte) (bytes : List Byte) : Memory :=
  ((List.range bytes.length).zip bytes).filter (fun c => c.2 ≠ dflt)

/-- Every byte of a memory of `capacity` bytes is `v`. -/
def Memory.filled (dflt : Byte) (capacity : Nat) (v : Byte) : Memory :=
  if v = dflt then [] else (List.range capacity).map (fun i => (i, v))

/-- `start ≤ a < start + range`, in the natural numbers (20_memory.md R40). -/
def inRange (start : Word) (range : Nat) (a : Word) : Bool :=
  decide (start.toNat ≤ a.toNat ∧ a.toNat < start.toNat + range)

/-! ## Data cards -/

/-- The byte of the card at bus address `a` (20_memory.md R46); the bus has made sure that `a` is in range. -/
def DataCard.read (c : DataCard) (a : Word) : Byte :=
  Memory.read c.fill c.mem (a.toNat - c.startAdr.toNat)

/-- `write_force`: the byte is stored whatever `write_locked` is (20_memory.md R46). -/
def DataCard.writeForce (c : DataCard) (a : Word) (v : Byte) : DataCard :=
  { c with mem := Memory.write c.fill c.mem (a.toNat - c.startAdr.toNat) v }

/-- `write`: "Writing to a ROM is a no-op; writing to RAM is persistent" (20_memory.md R46). -/
def DataCard.write (c : DataCard) (a : Word) (v : Byte) : DataCard :=
  if c.writeLocked then c else c.writeForce a v

/-- `clear()` "zero-fills only when unlocked" (20_memory.md R46). -/
def DataCard.clear (c : DataCard) : DataCard :=
  if c.writeLocked then c else { c with mem := Memory.filled c.fill c.adrRange 0 }

/-- The card's bytes are in the canonical form. -/
abbrev DataCard.wf (c : DataCard) : Prop := Memory.wf c.fill c.adrRange c.mem

/-! ## Other cards -/

/-- The card reacts once: its request line and instruction become what its script says (20_memory.md R47, log 7). -/
def OtherCard.react (c : OtherCard) : OtherCard :=
  match c.replies with
  | [] => c
  | r :: rest => { c with irq := r.irq, inst := r.inst, replies := rest }

/-- The byte the card gives if it is read now: any byte (20_memory.md R47, log 7). -/
def OtherCard.readByte (c : OtherCard) : Byte :=
  match c.replies with
  | [] => c.idle
  | r :: _ => r.data

end Sys2Proof.Machine
end

