-- ==== Sys2Proof/Machine/Acia.lean ====
section
/-! DEFINITION. The serial card: the 6850 register model and its endpoint (50_acia_6850.md). An action that the endpoint can
fail answers the card as the failing call left it (R238, 60_exceptions.md R265). -/

namespace Sys2Proof.Machine

/-- `v` with bit `i` set to `b` and every other bit as it was. -/
def setBit (v : Byte) (i : Nat) (b : Bool) : Byte :=
  if b then v ||| (1#8 <<< i) else v &&& ~~~(1#8 <<< i)

namespace SerialCard

/-- The low byte of `start_adr`, the decode key of the Status/Control port (50_acia_6850.md R221). -/
def base (c : SerialCard) : Nat := (lo8 c.startAdr).toNat

/-- Partial decode: only the low 8 address bits count (50_acia_6850.md R221). -/
def inRange (c : SerialCard) (a : Word) : Bool :=
  decide ((lo8 a).toNat = c.base ∨ (lo8 a).toNat = c.base + 1)

/-- `select(a)` is the Status/Control port rather than the Data port (50_acia_6850.md R221). -/
def selectsControl (c : SerialCard) (a : Word) : Bool := decide ((lo8 a).toNat = c.base)

/-- `RDRF`, status bit 0 (50_acia_6850.md R224). -/
def rdrf (c : SerialCard) : Bool := c.status.getLsbD 0

/-- `TDRE`, status bit 1 (50_acia_6850.md R224). -/
def tdre (c : SerialCard) : Bool := c.status.getLsbD 1

/-- `IRQ`, status bit 7 (50_acia_6850.md R224). -/
def irqBit (c : SerialCard) : Bool := c.status.getLsbD 7

/-- The number a divisor divides by (50_acia_6850.md R222). -/
def divisorValue : Divisor → Nat
  | .div1 => 1
  | .div16 => 16
  | .div64 => 64

/-- What the card gives `set_baud_rate` (50_acia_6850.md R222); no rule depends on it. -/
def baudRate (c : SerialCard) : Nat := Config.aciaBaseClock / divisorValue c.divisor

/-- The word-select table by `CONTROL[4:2]` (50_acia_6850.md R229). -/
def wordSelect (code : BitVec 3) : WordFormat :=
  match code.toNat with
  | 0 => ⟨.seven, .even, .two⟩
  | 1 => ⟨.seven, .odd, .two⟩
  | 2 => ⟨.seven, .even, .one⟩
  | 3 => ⟨.seven, .odd, .one⟩
  | 4 => ⟨.eight, .none, .two⟩
  | 5 => ⟨.eight, .none, .one⟩
  | 6 => ⟨.eight, .even, .one⟩
  | _ => ⟨.eight, .odd, .one⟩

/-- `AciaReset()` (50_acia_6850.md R231): the reset state of 10_state.md R30, loaded without the control decode. The
endpoint's queue and log are not touched. -/
def reset (c : SerialCard) : SerialCard :=
  { c with control := 0x95, status := 0x02, rts := 1, divisor := .div16, format := ⟨.eight, .none, .one⟩,
           txData := 0x00, rxData := 0x00 }

/-- `AciaRxPoll()` (50_acia_6850.md R226): the endpoint is asked only while `RDRF` is 0. -/
def rxPoll (c : SerialCard) : Except SerialCard SerialCard :=
  if c.rdrf then .ok c
  else
    match c.rx with
    | [] => .ok c
    | .idle :: rest => .ok { c with rx := rest }
    | .byte b :: rest => .ok { c with rx := rest, rxData := b, status := setBit c.status 0 true }
    | .fail :: rest => .error { c with rx := rest }

/-- One call of the endpoint's `putch` or `send_break` that gives it the event `e` (50_acia_6850.md R225, R238). DESIGN
CHOICE: a call that fails is not entered in the output log; the spec does not say whether it is (log 6). -/
def emit (c : SerialCard) (e : EndpointEvent) : Except SerialCard SerialCard :=
  match c.txFail with
  | [] => .ok { c with log := c.log ++ [e] }
  | false :: rest => .ok { c with txFail := rest, log := c.log ++ [e] }
  | true :: rest => .error { c with txFail := rest }

/-- `AciaTxFlush()` (50_acia_6850.md R234). -/
def txFlush (c : SerialCard) : Except SerialCard SerialCard :=
  if c.tdre then .ok c
  else
    match c.emit (.put c.txData) with
    | .ok c1 => .ok { c1 with status := setBit c1.status 1 true }
    | .error c1 => .error c1

/-- The clock-divide field `v[1:0]` of a control write (50_acia_6850.md R230): `11` is the master reset. -/
def applyClockField (c : SerialCard) (v : Byte) : SerialCard :=
  match (v.extractLsb' 0 2).toNat with
  | 0 => { c with divisor := .div1 }
  | 1 => { c with divisor := .div16 }
  | 2 => { c with divisor := .div64 }
  | _ => c.reset

/-- The TX control field `v[6:5]` of a control write (50_acia_6850.md R230, R232). -/
def applyTxField (c : SerialCard) (v : Byte) : Except SerialCard SerialCard :=
  match (v.extractLsb' 5 2).toNat with
  | 0 => .ok { c with rts := 1 }
  | 1 => .ok { c with rts := 1 }
  | 2 => .ok { c with rts := 0 }
  | _ => { c with rts := 1 }.emit .sendBreak

/-- The fields of a control write after the poll, in the order of the rule (50_acia_6850.md R230). -/
def controlDecode (c : SerialCard) (v : Byte) : Except SerialCard SerialCard :=
  let c1 := c.applyClockField v
  let c2 := { c1 with format := wordSelect (v.extractLsb' 2 3) }
  match c2.applyTxField v with
  | .error c3 => .error c3
  | .ok c3 => { c3 with status := setBit c3.status 7 (v.getLsbD 7), control := v }.txFlush

/-- Write to the Control port (50_acia_6850.md R230). -/
def writeControl (c : SerialCard) (v : Byte) : Except SerialCard SerialCard :=
  match c.rxPoll with
  | .error c1 => .error c1
  | .ok c1 => c1.controlDecode v

/-- Write to the Data port (50_acia_6850.md R235). -/
def writeData (c : SerialCard) (v : Byte) : Except SerialCard SerialCard :=
  match c.rxPoll with
  | .error c1 => .error c1
  | .ok c1 => { c1 with txData := v, status := setBit c1.status 1 false }.txFlush

/-- Read of the Status port (50_acia_6850.md R227). -/
def readStatus (c : SerialCard) : Except SerialCard (Byte × SerialCard) :=
  match c.rxPoll with
  | .error c1 => .error c1
  | .ok c1 => .ok (c1.status, c1)

/-- Read of the Data port (50_acia_6850.md R228). -/
def readData (p : Params) (c : SerialCard) : Except SerialCard (Byte × SerialCard) :=
  match c.rxPoll with
  | .error c1 => .error c1
  | .ok c1 =>
    .ok (c1.rxData, if p.aciaRdrfClearOnRead then { c1 with status := setBit c1.status 0 false } else c1)

/-- `read(a)` (50_acia_6850.md R237). -/
def read (p : Params) (c : SerialCard) (a : Word) : Except SerialCard (Byte × SerialCard) :=
  if c.selectsControl a then c.readStatus else c.readData p

/-- `write(a, v)`, which is also `write_force(a, v)` (50_acia_6850.md R237). -/
def write (c : SerialCard) (a : Word) (v : Byte) : Except SerialCard SerialCard :=
  if c.selectsControl a then c.writeControl v else c.writeData v

/-- A newly constructed card: the reset state, with what its endpoint will answer (70_reset_and_hazards.md R302). -/
def construct (startAdr : Word) (isIo : Bool) (rx : List RxReply) (txFail : List Bool) : SerialCard where
  startAdr := startAdr
  isIo := isIo
  status := 0x02
  control := 0x95
  rxData := 0x00
  txData := 0x00
  divisor := .div16
  rts := 1
  format := ⟨.eight, .none, .one⟩
  rx := rx
  txFail := txFail
  log := []

end SerialCard

end Sys2Proof.Machine
end

