-- ==== Sys2Proof/Machine/Bus.lean ====
section
/-! DEFINITION. The card contract (20_memory.md R45) over the kinds of card, the address decoder (R40, R41), the multiplexer
over the slots (R48 to R51) and the IRQ aggregator (60_exceptions.md R270, R271). -/

namespace Sys2Proof.Machine

/-! ## The card contract -/

/-- `is_io()` (20_memory.md R45). -/
def Card.isIo : Card → Bool
  | .data c => c.isIo
  | .serial c => c.isIo
  | .other c => c.isIo

/-- `in_range(a)` (20_memory.md R40; 50_acia_6850.md R221 for the serial card). -/
def Card.inRange (a : Word) : Card → Bool
  | .data c => Machine.inRange c.startAdr c.adrRange a
  | .serial c => c.inRange a
  | .other c => Machine.inRange c.startAdr c.adrRange a

/-- "A card matches `(adr, io)` iff `card.in_range(adr) && card.is_io() == io`" (20_memory.md R41). -/
def Card.answers (a : Word) (io : Bool) (c : Card) : Bool := c.inRange a && (c.isIo == io)

/-- `read(a)`: the byte and the card after it (20_memory.md R45 to R47). -/
def Card.read (p : Params) (a : Word) : Card → Except Card (Byte × Card)
  | .data c => .ok (c.read a, .data c)
  | .serial c =>
    match c.read p a with
    | .ok (v, c1) => .ok (v, .serial c1)
    | .error c1 => .error (.serial c1)
  | .other c => .ok (c.readByte, .other c.react)

/-- `write(a, v)`, or `write_force(a, v)` when `force` is set (20_memory.md R45 to R47, R50). -/
def Card.write (force : Bool) (a : Word) (v : Byte) : Card → Except Card Card
  | .data c => .ok (.data (if force then c.writeForce a v else c.write a v))
  | .serial c =>
    match c.write a v with
    | .ok c1 => .ok (.serial c1)
    | .error c1 => .error (.serial c1)
  | .other c => .ok (.other c.react)

/-- `refresh()`: no change of state for every card (20_memory.md R51). -/
def Card.refresh (c : Card) : Card := c

/-- `clear()` (20_memory.md R46, 50_acia_6850.md R237; an `Other` card does what its script says). -/
def Card.clear : Card → Card
  | .data c => .data c.clear
  | .serial c => .serial c.reset
  | .other c => .other c.react

/-- `is_irq()` and `get_irq()` together: the bytes the card supplies when it raises its request (60_exceptions.md R270;
50_acia_6850.md R237 for the serial card; a data card never does, 20_memory.md R46). -/
def Card.irqRequest (p : Params) : Card → Option IrqInst
  | .data _ => none
  | .serial c => if p.aciaIrqWired && c.irqBit then some Config.aciaIrqInst else none
  | .other c => if c.irq then some c.inst else none

/-- The card is asked for its request line: an `Other` card may change it by itself (60_exceptions.md R270, log 7). -/
def Card.asked : Card → Card
  | .data c => .data c
  | .serial c => .serial c
  | .other c => .other c.react

/-! ## The multiplexer -/

/-- The slot holds a card that matches `(a, io)`. -/
def Slot.answers (a : Word) (io : Bool) (sl : Slot) : Bool := sl.card.answers a io

/-- `BusRead` over the slots in ascending order: only the first matching card is touched; none when no card matches
(20_memory.md R48). -/
def readSlots (p : Params) (a : Word) (io : Bool) :
    List (Option Slot) → Option (Except (List (Option Slot)) (Byte × List (Option Slot)))
  | [] => none
  | none :: rest =>
    match readSlots p a io rest with
    | none => none
    | some (.ok (v, rest1)) => some (.ok (v, none :: rest1))
    | some (.error rest1) => some (.error (none :: rest1))
  | some sl :: rest =>
    if sl.answers a io then
      match sl.card.read p a with
      | .ok (v, c1) => some (.ok (v, some { sl with card := c1 } :: rest))
      | .error c1 => some (.error (some { sl with card := c1 } :: rest))
    else
      match readSlots p a io rest with
      | none => none
      | some (.ok (v, rest1)) => some (.ok (v, some sl :: rest1))
      | some (.error rest1) => some (.error (some sl :: rest1))

/-- `BusWrite` (or `BusWriteForce`) over the slots: every matching card is written, in slot order; a failing card ends the
access (20_memory.md R49, R50, 60_exceptions.md R265). -/
def writeSlots (force : Bool) (a : Word) (v : Byte) (io : Bool) :
    List (Option Slot) → Except (List (Option Slot)) (List (Option Slot))
  | [] => .ok []
  | none :: rest =>
    match writeSlots force a v io rest with
    | .ok rest1 => .ok (none :: rest1)
    | .error rest1 => .error (none :: rest1)
  | some sl :: rest =>
    if sl.answers a io then
      match sl.card.write force a v with
      | .error c1 => .error (some { sl with card := c1 } :: rest)
      | .ok c1 =>
        match writeSlots force a v io rest with
        | .ok rest1 => .ok (some { sl with card := c1 } :: rest1)
        | .error rest1 => .error (some { sl with card := c1 } :: rest1)
    else
      match writeSlots force a v io rest with
      | .ok rest1 => .ok (some sl :: rest1)
      | .error rest1 => .error (some sl :: rest1)

/-- `f` applied to the card of every slot that holds one, in slot order. -/
def mapCards (f : Card → Card) (slots : List (Option Slot)) : List (Option Slot) :=
  slots.map (Option.map fun sl => { sl with card := f sl.card })

/-- The byte a read of `(a, io)` gives without any effect: the byte of the answering data card, `0xFF` when no card answers,
and none when a serial or `Other` card answers (20_memory.md R48). -/
def peekSlots (a : Word) (io : Bool) : List (Option Slot) → Option Byte
  | [] => some badU8
  | none :: rest => peekSlots a io rest
  | some sl :: rest =>
    if sl.answers a io then
      match sl.card with
      | .data c => some (c.read a)
      | .serial _ => none
      | .other _ => none
    else peekSlots a io rest

/-! ## The IRQ aggregator -/

/-- The instruction of the first card, in slot order, that raises its request (60_exceptions.md R271). -/
def irqSlots (p : Params) : List (Option Slot) → Option IrqInst
  | [] => none
  | none :: rest => irqSlots p rest
  | some sl :: rest =>
    match sl.card.irqRequest p with
    | some inst => some inst
    | none => irqSlots p rest

end Sys2Proof.Machine
end

