-- ==== Sys2Proof/Machine/Ops.lean ====
section
/-! DEFINITION. The named operations over registers, memory, ports and the stack, taking an interrupt and returning from one
(10_state.md, 20_memory.md, 30_encoding.md R80, 45_stack_io_control.md R200, R201, 60_exceptions.md R274). -/

namespace Sys2Proof.Machine

/-! ## Actions in sequence -/

/-- The action `r`, then `k` on its value and state; a fault ends the sequence (60_exceptions.md R260). -/
def Act.andThen {α β : Type} (r : Act α) (k : α → State → Act β) : Act β :=
  match r with
  | .ok (x, s) => k x s
  | .error f => .error f

/-- The action `r`, then the outcome `k` gives on its value and state. -/
def Act.out {α : Type} (r : Act α) (k : α → State → Out) : Out :=
  match r with
  | .ok (x, s) => k x s
  | .error f => .fault f

/-- The action `r` as the last thing an instruction does. -/
def Act.done (r : Act Unit) : Out := r.out fun _ s => .next s

/-! ## The register file (10_state.md R10 to R15) -/

/-- The flag mask: `(v & 0xD7) | 0x02` (10_state.md R14). -/
def maskF (v : Byte) : Byte := (v &&& 0xD7) ||| 0x02

/-- `get16` (10_state.md R12). -/
def Regs.get16 (r : Regs) : Reg16 → Word
  | .af => r.af
  | .bc => r.bc
  | .de => r.de
  | .hl => r.hl
  | .sp => r.sp
  | .pc => r.pc

/-- `set16`; a write to `AF` passes through the flag mask (10_state.md R12, R14). -/
def Regs.set16 (r : Regs) (x : Reg16) (v : Word) : Regs :=
  match x with
  | .af => { r with af := pair (hi8 v) (maskF (lo8 v)) }
  | .bc => { r with bc := v }
  | .de => { r with de := v }
  | .hl => { r with hl := v }
  | .sp => { r with sp := v }
  | .pc => { r with pc := v }

/-- `get8` of the halves `A B C D E H L` (10_state.md R11, R12). -/
def Regs.get8 (r : Regs) : Reg8 → Byte
  | .a => hi8 r.af
  | .b => hi8 r.bc
  | .c => lo8 r.bc
  | .d => hi8 r.de
  | .e => lo8 r.de
  | .h => hi8 r.hl
  | .l => lo8 r.hl

/-- `set8` of the halves `A B C D E H L`: "a write to a half leaves the other half of its cell unchanged"
(10_state.md R11). -/
def Regs.set8 (r : Regs) (x : Reg8) (v : Byte) : Regs :=
  match x with
  | .a => { r with af := pair v (lo8 r.af) }
  | .b => { r with bc := pair v (lo8 r.bc) }
  | .c => { r with bc := pair (hi8 r.bc) v }
  | .d => { r with de := pair v (lo8 r.de) }
  | .e => { r with de := pair (hi8 r.de) v }
  | .h => { r with hl := pair v (lo8 r.hl) }
  | .l => { r with hl := pair (hi8 r.hl) v }

/-- `F = lo(AF)` (10_state.md R11). -/
def Regs.getF (r : Regs) : Byte := lo8 r.af

/-- `set8` of the half `F`: the mask is enforced (10_state.md R14). -/
def Regs.setF (r : Regs) (v : Byte) : Regs := { r with af := pair (hi8 r.af) (maskF v) }

/-- `inc16`, wrapping (10_state.md R12). -/
def Regs.inc16 (r : Regs) (x : Reg16) : Regs := r.set16 x (r.get16 x + 1)

/-- `inc8`, wrapping (10_state.md R12). -/
def Regs.inc8 (r : Regs) (x : Reg8) : Regs := r.set8 x (r.get8 x + 1)

/-- `get_then_inc16` "returns pre-value, adds 1, wraps mod 2^16" (10_state.md R12). -/
def Regs.getThenInc16 (r : Regs) (x : Reg16) : Word × Regs := (r.get16 x, r.inc16 x)

def State.get16 (s : State) (x : Reg16) : Word := s.regs.get16 x
def State.set16 (s : State) (x : Reg16) (v : Word) : State := { s with regs := s.regs.set16 x v }
def State.get8 (s : State) (x : Reg8) : Byte := s.regs.get8 x
def State.set8 (s : State) (x : Reg8) (v : Byte) : State := { s with regs := s.regs.set8 x v }
def State.getF (s : State) : Byte := s.regs.getF
def State.setF (s : State) (v : Byte) : State := { s with regs := s.regs.setF v }

/-- The accumulator `A`. -/
def State.acc (s : State) : Byte := s.get8 .a

/-- Set the accumulator `A`. -/
def State.setAcc (s : State) (v : Byte) : State := s.set8 .a v

/-! ## Bus accesses (20_memory.md R48 to R52) -/

/-- `BusRead(a, io)`: the first matching card's byte, or `0xFF` (20_memory.md R48). -/
def busRead (a : Word) (io : Bool) (s : State) : Act Byte :=
  match readSlots s.params a io s.slots with
  | none => .ok (badU8, s)
  | some (.ok (v, slots)) => .ok (v, { s with slots := slots })
  | some (.error slots) => .error (.endpointIoError { s with slots := slots })

/-- `BusWrite(a, v, io)`, or `BusWriteForce(a, v, io)` when `force` is set (20_memory.md R49, R50). -/
def busWriteWith (force : Bool) (a : Word) (v : Byte) (io : Bool) (s : State) : Act Unit :=
  match writeSlots force a v io s.slots with
  | .ok slots => .ok ((), { s with slots := slots })
  | .error slots => .error (.endpointIoError { s with slots := slots })

/-- `BusWrite(a, v, io)` (20_memory.md R49). -/
def busWrite (a : Word) (v : Byte) (io : Bool) (s : State) : Act Unit := busWriteWith false a v io s

/-- `BusWriteForce(a, v, io)`, the loader's (20_memory.md R50). -/
def busWriteForce (a : Word) (v : Byte) (io : Bool) (s : State) : Act Unit := busWriteWith true a v io s

/-- The byte at `(a, io)` when a data card or no card answers there; none when a device answers (`peekSlots`). -/
def State.peek (s : State) (io : Bool) (a : Word) : Option Byte := peekSlots a io s.slots

/-- `bus.refresh_if_any()` (20_memory.md R51). -/
def busRefresh (s : State) : State := { s with slots := mapCards Card.refresh s.slots }

/-- `MemRead(a, 1)` (00_scope.md R7). -/
def memRead (a : Word) (s : State) : Act Byte := busRead a false s

/-- `MemWrite(a, 1, v)` (00_scope.md R7). -/
def memWrite (a : Word) (v : Byte) (s : State) : Act Unit := busWrite a v false s

/-- `MemRead(a, 2)`: lower address first, little-endian, the second address wraps (20_memory.md R56). -/
def memRead2 (a : Word) (s : State) : Act Word :=
  (memRead a s).andThen fun lo s1 =>
  (memRead (a + 1) s1).andThen fun hi s2 => .ok (pair hi lo, s2)

/-- `MemWrite(a, 2, v)`: `lo(v)` to `a`, then `hi(v)` to `a + 1` (20_memory.md R56). -/
def memWrite2 (a : Word) (v : Word) (s : State) : Act Unit :=
  (memWrite a (lo8 v) s).andThen fun _ s1 => memWrite (a + 1) (hi8 v) s1

/-- The port number in both halves of the address (20_memory.md R65). -/
def portAddr (port : Byte) : Word := pair port port

/-- `IoRead` of a port; on the flat-array bus variant there is no port I/O (60_exceptions.md R264). -/
def ioRead (port : Byte) (s : State) : Act Byte :=
  if s.params.flatArrayBus then .error (.unsupportedPortIo s) else busRead (portAddr port) true s

/-- `IoWrite` of a port; on the flat-array bus variant there is no port I/O (60_exceptions.md R264). -/
def ioWrite (port : Byte) (v : Byte) (s : State) : Act Unit :=
  if s.params.flatArrayBus then .error (.unsupportedPortIo s) else busWrite (portAddr port) v true s

/-! ## Fetch (30_encoding.md R80, R81) -/

/-- `Fetch8()`: from memory at `pc`, which advances, or from the interrupt operand buffer, which does not move `pc`
(30_encoding.md R80). -/
def fetch8 (s : State) : Act Byte :=
  match s.irqQueue with
  | [] => (memRead (s.get16 .pc) s).andThen fun b s1 => .ok (b, s1.set16 .pc (s.get16 .pc + 1))
  | b :: rest => .ok (b, { s with irqQueue := rest })

/-! ## Stack (45_stack_io_control.md R200, R201) -/

/-- `Push16(v)` (45_stack_io_control.md R200). -/
def push16 (v : Word) (s : State) : Act Unit :=
  memWrite2 (s.get16 .sp - 2) v (s.set16 .sp (s.get16 .sp - 2))

/-- `Pop16()` (45_stack_io_control.md R201). -/
def pop16 (s : State) : Act Word :=
  (memRead2 (s.get16 .sp) s).andThen fun v s1 => .ok (v, s1.set16 .sp (s1.get16 .sp + 2))

/-! ## Taking an interrupt and returning from one -/

/-- The machine's half of `AcceptInterrupt()` before `Execute(inst[0])` (60_exceptions.md R274): interrupts are disabled,
`halted` is cleared when `IRQ_WAKES_HALT`, `pc` is pushed when `IRQ_ACCEPT_PUSHES_PC`, and the operand buffer holds
`inst[1], inst[2]`. Nothing else is saved; there is no mode to change. -/
def enterInterrupt (inst : IrqInst) (s : State) : Act Unit :=
  let s1 := { s with interruptsEnabled := false, halted := s.halted && !s.params.irqWakesHalt }
  (if s1.params.irqAcceptPushesPc then push16 (s1.get16 .pc) s1 else .ok ((), s1)).andThen fun _ s2 =>
    .ok ((), { s2 with irqQueue := [inst.b1, inst.b2] })

/-- The end of the one instruction an acceptance executes: the operand buffer is none again (60_exceptions.md R274). -/
def leaveInterrupt (s : State) : State := { s with irqQueue := [] }

/-- `pc <- Pop16()`: the only return there is, from a subroutine and from an interrupt handler alike
(44_control_flow.md R189, 60_exceptions.md R277). -/
def returnFromCall (s : State) : Act Unit :=
  (pop16 s).andThen fun v s1 => .ok ((), s1.set16 .pc v)

end Sys2Proof.Machine
end

