-- ==== Sys2Proof/Machine/Flags.lean ====
section
/-! DEFINITION. Every flag computation (10_state.md R13 to R16, 41_inc_dec_dad.md R130 to R136, 42_alu.md R141 to R143,
43_rotate_daa_misc.md R174). -/

namespace Sys2Proof.Machine

/-- The bit of `F` that holds a flag (10_state.md R13). -/
def Flag.bit : Flag → Nat
  | .c => 0
  | .p => 2
  | .ac => 4
  | .z => 6
  | .s => 7

/-- `get_flag(X)` (10_state.md R15). -/
def State.flag (s : State) (x : Flag) : Bool := s.getF.getLsbD x.bit

/-- `set_flag(X, b)`: that one bit of `F` (10_state.md R15). -/
def State.setFlag (s : State) (x : Flag) (b : Bool) : State :=
  { s with regs := { s.regs with af := pair (hi8 s.regs.af) (setBit s.getF x.bit b) } }

/-- A flag as the number 0 or 1. -/
def State.flagNat (s : State) (x : Flag) : Nat := (s.flag x).toNat

/-- The number of 1 bits of a byte. -/
def popCount (v : Byte) : Nat := ((List.range 8).filter fun i => v.getLsbD i).length

/-- `parity8(v)`: the number of 1 bits is even (10_state.md R16). -/
def parity8 (v : Byte) : Bool := popCount v % 2 == 0

/-- `SetZSP(v)`: Z, S, P of the 8-bit `v`; `C` and `AC` are not touched (10_state.md R16). -/
def State.setZsp (s : State) (v : Byte) : State :=
  ((s.setFlag .z (v == 0)).setFlag .s (v.getLsbD 7)).setFlag .p (parity8 v)

/-- The low nibble of a byte as a number. -/
def lowNibble (v : Byte) : Nat := (v.extractLsb' 0 4).toNat

/-- The high nibble of a byte as a number. -/
def highNibble (v : Byte) : Nat := (v.extractLsb' 4 4).toNat

/-- `Flag.AC` of `INR` (41_inc_dec_dad.md R130). -/
def acIncrement (v : Byte) : Bool := lowNibble v == 0xF

/-- `Flag.AC` of `DCR` (41_inc_dec_dad.md R132). -/
def acDecrement (v : Byte) : Bool := lowNibble v == 0x0

/-- The add core `AluAdd(v, cin)` (42_alu.md R141). -/
def aluAdd (v : Byte) (cin : Bool) (s : State) : State :=
  let a := s.acc
  let t := a.toNat + v.toNat + cin.toNat
  let r : Byte := BitVec.ofNat 8 t
  (((s.setFlag .c (decide (0xFF < t))).setFlag .ac
    (decide (0xF < lowNibble a + lowNibble v + cin.toNat))).setAcc r).setZsp r

/-- The subtract core `AluSub(v, bin, keep)` (42_alu.md R142): `C` is the borrow, `AC` compares the low nibbles without the
borrow-in (D5), and `A` is written only when `keep`. -/
def aluSub (v : Byte) (bin keep : Bool) (s : State) : State :=
  let a := s.acc
  let r : Byte := a - v - BitVec.ofNat 8 bin.toNat
  let s1 := ((s.setFlag .c (decide (a.toNat < v.toNat + bin.toNat))).setFlag .ac
    (decide (lowNibble v ≤ lowNibble a))).setZsp r
  if keep then s1.setAcc r else s1

/-- The logic core `AluAnd(v, imm)` (42_alu.md R143). -/
def aluAnd (v : Byte) (imm : Bool) (s : State) : State :=
  let a := s.acc
  (((s.setFlag .c false).setFlag .ac (!imm && (a ||| v).getLsbD 3)).setAcc (a &&& v)).setZsp (a &&& v)

/-- The logic core `AluXor(v)` (42_alu.md R143). -/
def aluXor (v : Byte) (s : State) : State :=
  let r := s.acc ^^^ v
  (((s.setFlag .c false).setFlag .ac false).setAcc r).setZsp r

/-- The logic core `AluOr(v)` (42_alu.md R143). -/
def aluOr (v : Byte) (s : State) : State :=
  let r := s.acc ||| v
  (((s.setFlag .c false).setFlag .ac false).setAcc r).setZsp r

/-- The correction `DAA` adds (43_rotate_daa_misc.md R174). -/
def daaCorrection (a : Byte) (ac cy : Bool) : Byte :=
  (if ac || decide (9 < lowNibble a) then 0x06 else 0x00) +
  (if cy || decide (9 < highNibble a) || (decide (9 ≤ highNibble a) && decide (9 < lowNibble a)) then 0x60 else 0x00)

/-- The carry `DAA` leaves: never cleared (43_rotate_daa_misc.md R174). -/
def daaCarry (a : Byte) (cy : Bool) : Bool :=
  cy || decide (9 < highNibble a) || (decide (9 ≤ highNibble a) && decide (9 < lowNibble a))

/-- `DAA` (43_rotate_daa_misc.md R174). -/
def aluDaa (s : State) : State :=
  let a := s.acc
  let corr := daaCorrection a (s.flag .ac) (s.flag .c)
  let r := a + corr
  (((s.setFlag .ac (decide (0xF < lowNibble a + lowNibble corr))).setAcc r).setFlag .c
    (daaCarry a (s.flag .c))).setZsp r

end Sys2Proof.Machine
end

