-- ==== Sys2Proof/Machine/Operands.lean ====
section
/-! DEFINITION. Every operand form: the selectors R8 with `M`, RP, RPP, and the conditions CC (30_encoding.md R85 to R89). -/

namespace Sys2Proof.Machine

/-- The cell a register-pair selector names (30_encoding.md R85). -/
def regPairCell : RegPair → Reg16
  | .bc => .bc
  | .de => .de
  | .hl => .hl
  | .sp => .sp

/-- The cell a stack-pair selector names: `SP` is replaced by `AF` (30_encoding.md R85). -/
def stackCell : StackPair → Reg16
  | .bc => .bc
  | .de => .de
  | .hl => .hl
  | .psw => .af

/-- The cell `LDAX` and `STAX` address through (40_data_moves.md R118, R119). -/
def indexCell : IndexPair → Reg16
  | .bc => .bc
  | .de => .de

/-- The address of the memory operand `M` (30_encoding.md R86). -/
def State.mAddr (s : State) : Word := s.get16 .hl

/-- Reading `R8[i]`: "reading `R8[6]` is `MemRead(HL, 1)`" (30_encoding.md R86). -/
def readR8 (x : R8Sel) (s : State) : Act Byte :=
  match x with
  | .reg r => .ok (s.get8 r, s)
  | .m => memRead s.mAddr s

/-- Writing `R8[i]`: "writing `R8[6] <- v` is `MemWrite(HL, 1, v)`" (30_encoding.md R86). -/
def writeR8 (x : R8Sel) (v : Byte) (s : State) : Act Unit :=
  match x with
  | .reg r => .ok ((), s.set8 r v)
  | .m => memWrite s.mAddr v s

/-- `Cond(c)` (30_encoding.md R88). -/
def State.cond (s : State) : Cond → Bool
  | .nz => !s.flag .z
  | .z => s.flag .z
  | .nc => !s.flag .c
  | .c => s.flag .c
  | .po => !s.flag .p
  | .pe => s.flag .p
  | .p => !s.flag .s
  | .m => s.flag .s

/-- The restart vector `8 * n` (30_encoding.md R89). -/
def restartVector (n : BitVec 3) : Word := 8 * n.setWidth 16

end Sys2Proof.Machine
end

