-- ==== Sys2Proof/Machine/Alu.lean ====
section
/-! DEFINITION. The ALU group (42_alu.md). -/

namespace Sys2Proof.Machine

/-! ## Shared operations -/

/-- The core an ALU selector names, on the operand byte `v`; `imm` is the immediate form (42_alu.md R141 to R151). -/
def aluApply (op : AluOp) (imm : Bool) (v : Byte) (s : State) : State :=
  match op with
  | .add => aluAdd v false s
  | .adc => aluAdd v (s.flag .c) s
  | .sub => aluSub v false true s
  | .sbb => aluSub v (s.flag .c) true s
  | .ana => aluAnd v imm s
  | .xra => aluXor v s
  | .ora => aluOr v s
  | .cmp => aluSub v false false s

/-- The register and memory forms: the operand is read once, before any flag or `A` is written (42_alu.md R140). -/
def aluOperand (op : AluOp) (x : R8Sel) (s : State) : Out :=
  (readR8 x s).out fun v s1 => .next (aluApply op false v s1)

/-- The immediate forms (42_alu.md R140, R152 to R159). -/
def aluImmediate (op : AluOp) (d8 : Byte) (s : State) : Out := .next (aluApply op true d8 s)

/-! ## Meanings -/

/-- `ADD B` (42_alu.md R144). -/
def execAddB (s : State) : Out := aluOperand .add (.reg .b) s

/-- `ADD C` (42_alu.md R144). -/
def execAddC (s : State) : Out := aluOperand .add (.reg .c) s

/-- `ADD D` (42_alu.md R144). -/
def execAddD (s : State) : Out := aluOperand .add (.reg .d) s

/-- `ADD E` (42_alu.md R144). -/
def execAddE (s : State) : Out := aluOperand .add (.reg .e) s

/-- `ADD H` (42_alu.md R144). -/
def execAddH (s : State) : Out := aluOperand .add (.reg .h) s

/-- `ADD L` (42_alu.md R144). -/
def execAddL (s : State) : Out := aluOperand .add (.reg .l) s

/-- `ADD M` (42_alu.md R144). -/
def execAddM (s : State) : Out := aluOperand .add .m s

/-- `ADD A` (42_alu.md R144). -/
def execAddA (s : State) : Out := aluOperand .add (.reg .a) s

/-- `ADC B` (42_alu.md R145). -/
def execAdcB (s : State) : Out := aluOperand .adc (.reg .b) s

/-- `ADC C` (42_alu.md R145). -/
def execAdcC (s : State) : Out := aluOperand .adc (.reg .c) s

/-- `ADC D` (42_alu.md R145). -/
def execAdcD (s : State) : Out := aluOperand .adc (.reg .d) s

/-- `ADC E` (42_alu.md R145). -/
def execAdcE (s : State) : Out := aluOperand .adc (.reg .e) s

/-- `ADC H` (42_alu.md R145). -/
def execAdcH (s : State) : Out := aluOperand .adc (.reg .h) s

/-- `ADC L` (42_alu.md R145). -/
def execAdcL (s : State) : Out := aluOperand .adc (.reg .l) s

/-- `ADC M` (42_alu.md R145). -/
def execAdcM (s : State) : Out := aluOperand .adc .m s

/-- `ADC A` (42_alu.md R145). -/
def execAdcA (s : State) : Out := aluOperand .adc (.reg .a) s

/-- `SUB B` (42_alu.md R146). -/
def execSubB (s : State) : Out := aluOperand .sub (.reg .b) s

/-- `SUB C` (42_alu.md R146). -/
def execSubC (s : State) : Out := aluOperand .sub (.reg .c) s

/-- `SUB D` (42_alu.md R146). -/
def execSubD (s : State) : Out := aluOperand .sub (.reg .d) s

/-- `SUB E` (42_alu.md R146). -/
def execSubE (s : State) : Out := aluOperand .sub (.reg .e) s

/-- `SUB H` (42_alu.md R146). -/
def execSubH (s : State) : Out := aluOperand .sub (.reg .h) s

/-- `SUB L` (42_alu.md R146). -/
def execSubL (s : State) : Out := aluOperand .sub (.reg .l) s

/-- `SUB M` (42_alu.md R146). -/
def execSubM (s : State) : Out := aluOperand .sub .m s

/-- `SUB A` (42_alu.md R146). -/
def execSubA (s : State) : Out := aluOperand .sub (.reg .a) s

/-- `SBB B` (42_alu.md R147). -/
def execSbbB (s : State) : Out := aluOperand .sbb (.reg .b) s

/-- `SBB C` (42_alu.md R147). -/
def execSbbC (s : State) : Out := aluOperand .sbb (.reg .c) s

/-- `SBB D` (42_alu.md R147). -/
def execSbbD (s : State) : Out := aluOperand .sbb (.reg .d) s

/-- `SBB E` (42_alu.md R147). -/
def execSbbE (s : State) : Out := aluOperand .sbb (.reg .e) s

/-- `SBB H` (42_alu.md R147). -/
def execSbbH (s : State) : Out := aluOperand .sbb (.reg .h) s

/-- `SBB L` (42_alu.md R147). -/
def execSbbL (s : State) : Out := aluOperand .sbb (.reg .l) s

/-- `SBB M` (42_alu.md R147). -/
def execSbbM (s : State) : Out := aluOperand .sbb .m s

/-- `SBB A` (42_alu.md R147). -/
def execSbbA (s : State) : Out := aluOperand .sbb (.reg .a) s

/-- `ANA B` (42_alu.md R148). -/
def execAnaB (s : State) : Out := aluOperand .ana (.reg .b) s

/-- `ANA C` (42_alu.md R148). -/
def execAnaC (s : State) : Out := aluOperand .ana (.reg .c) s

/-- `ANA D` (42_alu.md R148). -/
def execAnaD (s : State) : Out := aluOperand .ana (.reg .d) s

/-- `ANA E` (42_alu.md R148). -/
def execAnaE (s : State) : Out := aluOperand .ana (.reg .e) s

/-- `ANA H` (42_alu.md R148). -/
def execAnaH (s : State) : Out := aluOperand .ana (.reg .h) s

/-- `ANA L` (42_alu.md R148). -/
def execAnaL (s : State) : Out := aluOperand .ana (.reg .l) s

/-- `ANA M` (42_alu.md R148). -/
def execAnaM (s : State) : Out := aluOperand .ana .m s

/-- `ANA A` (42_alu.md R148). -/
def execAnaA (s : State) : Out := aluOperand .ana (.reg .a) s

/-- `XRA B` (42_alu.md R149). -/
def execXraB (s : State) : Out := aluOperand .xra (.reg .b) s

/-- `XRA C` (42_alu.md R149). -/
def execXraC (s : State) : Out := aluOperand .xra (.reg .c) s

/-- `XRA D` (42_alu.md R149). -/
def execXraD (s : State) : Out := aluOperand .xra (.reg .d) s

/-- `XRA E` (42_alu.md R149). -/
def execXraE (s : State) : Out := aluOperand .xra (.reg .e) s

/-- `XRA H` (42_alu.md R149). -/
def execXraH (s : State) : Out := aluOperand .xra (.reg .h) s

/-- `XRA L` (42_alu.md R149). -/
def execXraL (s : State) : Out := aluOperand .xra (.reg .l) s

/-- `XRA M` (42_alu.md R149). -/
def execXraM (s : State) : Out := aluOperand .xra .m s

/-- `XRA A` (42_alu.md R149). -/
def execXraA (s : State) : Out := aluOperand .xra (.reg .a) s

/-- `ORA B` (42_alu.md R150). -/
def execOraB (s : State) : Out := aluOperand .ora (.reg .b) s

/-- `ORA C` (42_alu.md R150). -/
def execOraC (s : State) : Out := aluOperand .ora (.reg .c) s

/-- `ORA D` (42_alu.md R150). -/
def execOraD (s : State) : Out := aluOperand .ora (.reg .d) s

/-- `ORA E` (42_alu.md R150). -/
def execOraE (s : State) : Out := aluOperand .ora (.reg .e) s

/-- `ORA H` (42_alu.md R150). -/
def execOraH (s : State) : Out := aluOperand .ora (.reg .h) s

/-- `ORA L` (42_alu.md R150). -/
def execOraL (s : State) : Out := aluOperand .ora (.reg .l) s

/-- `ORA M` (42_alu.md R150). -/
def execOraM (s : State) : Out := aluOperand .ora .m s

/-- `ORA A` (42_alu.md R150). -/
def execOraA (s : State) : Out := aluOperand .ora (.reg .a) s

/-- `CMP B` (42_alu.md R151). -/
def execCmpB (s : State) : Out := aluOperand .cmp (.reg .b) s

/-- `CMP C` (42_alu.md R151). -/
def execCmpC (s : State) : Out := aluOperand .cmp (.reg .c) s

/-- `CMP D` (42_alu.md R151). -/
def execCmpD (s : State) : Out := aluOperand .cmp (.reg .d) s

/-- `CMP E` (42_alu.md R151). -/
def execCmpE (s : State) : Out := aluOperand .cmp (.reg .e) s

/-- `CMP H` (42_alu.md R151). -/
def execCmpH (s : State) : Out := aluOperand .cmp (.reg .h) s

/-- `CMP L` (42_alu.md R151). -/
def execCmpL (s : State) : Out := aluOperand .cmp (.reg .l) s

/-- `CMP M` (42_alu.md R151). -/
def execCmpM (s : State) : Out := aluOperand .cmp .m s

/-- `CMP A` (42_alu.md R151). -/
def execCmpA (s : State) : Out := aluOperand .cmp (.reg .a) s

/-- `ADI d8` (42_alu.md R152). -/
def execAdi (d8 : Byte) (s : State) : Out := aluImmediate .add d8 s

/-- `ACI d8` (42_alu.md R153). -/
def execAci (d8 : Byte) (s : State) : Out := aluImmediate .adc d8 s

/-- `SUI d8` (42_alu.md R154). -/
def execSui (d8 : Byte) (s : State) : Out := aluImmediate .sub d8 s

/-- `SBI d8` (42_alu.md R155). -/
def execSbi (d8 : Byte) (s : State) : Out := aluImmediate .sbb d8 s

/-- `ANI d8` (42_alu.md R156). -/
def execAni (d8 : Byte) (s : State) : Out := aluImmediate .ana d8 s

/-- `XRI d8` (42_alu.md R157). -/
def execXri (d8 : Byte) (s : State) : Out := aluImmediate .xra d8 s

/-- `ORI d8` (42_alu.md R158). -/
def execOri (d8 : Byte) (s : State) : Out := aluImmediate .ora d8 s

/-- `CPI d8` (42_alu.md R159). -/
def execCpi (d8 : Byte) (s : State) : Out := aluImmediate .cmp d8 s

end Sys2Proof.Machine
end

