-- ==== Sys2Proof/Machine/Control.lean ====
section
/-! DEFINITION. Control transfer (44_control_flow.md). No flag is written. The return address is `pc`, which is past the whole
instruction, or the interrupted `pc` when the instruction comes from the interrupt buffer. -/

namespace Sys2Proof.Machine

/-! ## Shared operations -/

/-- `Jcc`: `pc` stays past the instruction when the condition is false (44_control_flow.md R186). -/
def jumpIf (cc : Cond) (a16 : Word) (s : State) : Out := .next (if s.cond cc then s.set16 .pc a16 else s)

/-- `Push16(pc); pc <- target` (44_control_flow.md R187, R191). -/
def callTo (target : Word) (s : State) : Out :=
  (push16 (s.get16 .pc) s).out fun _ s1 => .next (s1.set16 .pc target)

/-- `Ccc`: no stack access when not taken (44_control_flow.md R188). -/
def callIf (cc : Cond) (a16 : Word) (s : State) : Out := if s.cond cc then callTo a16 s else .next s

/-- `Rcc`: no stack access when not taken (44_control_flow.md R190). -/
def returnIf (cc : Cond) (s : State) : Out := if s.cond cc then (returnFromCall s).done else .next s

/-! ## Meanings -/

/-- `RNZ` (44_control_flow.md R190). -/
def execRnz (s : State) : Out := returnIf .nz s

/-- `JNZ a16` (44_control_flow.md R186). -/
def execJnz (a16 : Word) (s : State) : Out := jumpIf .nz a16 s

/-- `JMP a16` (44_control_flow.md R185). -/
def execJmp (a16 : Word) (s : State) : Out := .next (s.set16 .pc a16)

/-- `CNZ a16` (44_control_flow.md R188). -/
def execCnz (a16 : Word) (s : State) : Out := callIf .nz a16 s

/-- `RST 0` (44_control_flow.md R191). -/
def execRst0 (s : State) : Out := callTo (restartVector 0) s

/-- `RZ` (44_control_flow.md R190). -/
def execRz (s : State) : Out := returnIf .z s

/-- `RET` (44_control_flow.md R189). -/
def execRet (s : State) : Out := (returnFromCall s).done

/-- `JZ a16` (44_control_flow.md R186). -/
def execJz (a16 : Word) (s : State) : Out := jumpIf .z a16 s

/-- `CZ a16` (44_control_flow.md R188). -/
def execCz (a16 : Word) (s : State) : Out := callIf .z a16 s

/-- `CALL a16` (44_control_flow.md R187). -/
def execCall (a16 : Word) (s : State) : Out := callTo a16 s

/-- `RST 1` (44_control_flow.md R191). -/
def execRst1 (s : State) : Out := callTo (restartVector 1) s

/-- `RNC` (44_control_flow.md R190). -/
def execRnc (s : State) : Out := returnIf .nc s

/-- `JNC a16` (44_control_flow.md R186). -/
def execJnc (a16 : Word) (s : State) : Out := jumpIf .nc a16 s

/-- `CNC a16` (44_control_flow.md R188). -/
def execCnc (a16 : Word) (s : State) : Out := callIf .nc a16 s

/-- `RST 2` (44_control_flow.md R191). -/
def execRst2 (s : State) : Out := callTo (restartVector 2) s

/-- `RC` (44_control_flow.md R190). -/
def execRc (s : State) : Out := returnIf .c s

/-- `JC a16` (44_control_flow.md R186). -/
def execJc (a16 : Word) (s : State) : Out := jumpIf .c a16 s

/-- `CC a16` (44_control_flow.md R188). -/
def execCc (a16 : Word) (s : State) : Out := callIf .c a16 s

/-- `RST 3` (44_control_flow.md R191). -/
def execRst3 (s : State) : Out := callTo (restartVector 3) s

/-- `RPO` (44_control_flow.md R190). -/
def execRpo (s : State) : Out := returnIf .po s

/-- `JPO a16` (44_control_flow.md R186). -/
def execJpo (a16 : Word) (s : State) : Out := jumpIf .po a16 s

/-- `CPO a16` (44_control_flow.md R188). -/
def execCpo (a16 : Word) (s : State) : Out := callIf .po a16 s

/-- `RST 4` (44_control_flow.md R191). -/
def execRst4 (s : State) : Out := callTo (restartVector 4) s

/-- `RPE` (44_control_flow.md R190). -/
def execRpe (s : State) : Out := returnIf .pe s

/-- `PCHL` (44_control_flow.md R192). -/
def execPchl (s : State) : Out := .next (s.set16 .pc (s.get16 .hl))

/-- `JPE a16` (44_control_flow.md R186). -/
def execJpe (a16 : Word) (s : State) : Out := jumpIf .pe a16 s

/-- `CPE a16` (44_control_flow.md R188). -/
def execCpe (a16 : Word) (s : State) : Out := callIf .pe a16 s

/-- `RST 5` (44_control_flow.md R191). -/
def execRst5 (s : State) : Out := callTo (restartVector 5) s

/-- `RP` (44_control_flow.md R190). -/
def execRp (s : State) : Out := returnIf .p s

/-- `JP a16` (44_control_flow.md R186). -/
def execJp (a16 : Word) (s : State) : Out := jumpIf .p a16 s

/-- `CP a16` (44_control_flow.md R188). -/
def execCp (a16 : Word) (s : State) : Out := callIf .p a16 s

/-- `RST 6` (44_control_flow.md R191). -/
def execRst6 (s : State) : Out := callTo (restartVector 6) s

/-- `RM` (44_control_flow.md R190). -/
def execRm (s : State) : Out := returnIf .m s

/-- `JM a16` (44_control_flow.md R186). -/
def execJm (a16 : Word) (s : State) : Out := jumpIf .m a16 s

/-- `CM a16` (44_control_flow.md R188). -/
def execCm (a16 : Word) (s : State) : Out := callIf .m a16 s

/-- `RST 7` (44_control_flow.md R191). -/
def execRst7 (s : State) : Out := callTo (restartVector 7) s

end Sys2Proof.Machine
end

