-- ==== Sys2Proof/Machine/DataMoves.lean ====
section
/-! DEFINITION. The data moves (40_data_moves.md). A meaning starts with `pc` past the whole instruction (10_state.md R18) and
with its operand bytes already fetched (30_encoding.md R83). No flag is written. -/

namespace Sys2Proof.Machine

/-! ## Shared operations -/

/-- `R8[ddd] <- R8[sss]` between registers (40_data_moves.md R110). -/
def moveRR (dst src : Reg8) (s : State) : Out := .next (s.set8 dst (s.get8 src))

/-- `R8[ddd] <- MemRead(HL, 1)` (40_data_moves.md R111). -/
def loadRM (dst : Reg8) (s : State) : Out := (readR8 .m s).out fun v s1 => .next (s1.set8 dst v)

/-- `MemWrite(HL, 1, R8[sss])` (40_data_moves.md R112). -/
def storeMR (src : Reg8) (s : State) : Out := (writeR8 .m (s.get8 src) s).done

/-- `R8[ddd] <- d8`, a register or `M` (40_data_moves.md R113, R114). -/
def moveImm (dst : R8Sel) (d8 : Byte) (s : State) : Out := (writeR8 dst d8 s).done

/-! ## Meanings -/

/-- `LXI B,d16` (40_data_moves.md R115). -/
def execLxiB (d16 : Word) (s : State) : Out := .next (s.set16 .bc d16)

/-- `STAX B` (40_data_moves.md R119). -/
def execStaxB (s : State) : Out := (memWrite (s.get16 .bc) s.acc s).done

/-- `MVI B,d8` (40_data_moves.md R113). -/
def execMviB (d8 : Byte) (s : State) : Out := moveImm (.reg .b) d8 s

/-- `LDAX B` (40_data_moves.md R118). -/
def execLdaxB (s : State) : Out := (memRead (s.get16 .bc) s).out fun v s1 => .next (s1.setAcc v)

/-- `MVI C,d8` (40_data_moves.md R113). -/
def execMviC (d8 : Byte) (s : State) : Out := moveImm (.reg .c) d8 s

/-- `LXI D,d16` (40_data_moves.md R115). -/
def execLxiD (d16 : Word) (s : State) : Out := .next (s.set16 .de d16)

/-- `STAX D` (40_data_moves.md R119). -/
def execStaxD (s : State) : Out := (memWrite (s.get16 .de) s.acc s).done

/-- `MVI D,d8` (40_data_moves.md R113). -/
def execMviD (d8 : Byte) (s : State) : Out := moveImm (.reg .d) d8 s

/-- `LDAX D` (40_data_moves.md R118). -/
def execLdaxD (s : State) : Out := (memRead (s.get16 .de) s).out fun v s1 => .next (s1.setAcc v)

/-- `MVI E,d8` (40_data_moves.md R113). -/
def execMviE (d8 : Byte) (s : State) : Out := moveImm (.reg .e) d8 s

/-- `LXI H,d16` (40_data_moves.md R115). -/
def execLxiH (d16 : Word) (s : State) : Out := .next (s.set16 .hl d16)

/-- `SHLD a16` (40_data_moves.md R121). -/
def execShld (a16 : Word) (s : State) : Out := (memWrite2 a16 (s.get16 .hl) s).done

/-- `MVI H,d8` (40_data_moves.md R113). -/
def execMviH (d8 : Byte) (s : State) : Out := moveImm (.reg .h) d8 s

/-- `LHLD a16` (40_data_moves.md R120). DESIGN CHOICE: `HL` is written after both reads, the form `HL <- MemRead(a, 2)` of
the rule, so `L` is still the old one when the second read faults (log 16). -/
def execLhld (a16 : Word) (s : State) : Out := (memRead2 a16 s).out fun v s1 => .next (s1.set16 .hl v)

/-- `MVI L,d8` (40_data_moves.md R113). -/
def execMviL (d8 : Byte) (s : State) : Out := moveImm (.reg .l) d8 s

/-- `LXI SP,d16` (40_data_moves.md R115). -/
def execLxiSp (d16 : Word) (s : State) : Out := .next (s.set16 .sp d16)

/-- `STA a16` (40_data_moves.md R117). -/
def execSta (a16 : Word) (s : State) : Out := (memWrite a16 s.acc s).done

/-- `MVI M,d8` (40_data_moves.md R114). -/
def execMviM (d8 : Byte) (s : State) : Out := moveImm .m d8 s

/-- `LDA a16` (40_data_moves.md R116). -/
def execLda (a16 : Word) (s : State) : Out := (memRead a16 s).out fun v s1 => .next (s1.setAcc v)

/-- `MVI A,d8` (40_data_moves.md R113). -/
def execMviA (d8 : Byte) (s : State) : Out := moveImm (.reg .a) d8 s

/-- `MOV B,B` (40_data_moves.md R110). -/
def execMovBB (s : State) : Out := moveRR .b .b s

/-- `MOV B,C` (40_data_moves.md R110). -/
def execMovBC (s : State) : Out := moveRR .b .c s

/-- `MOV B,D` (40_data_moves.md R110). -/
def execMovBD (s : State) : Out := moveRR .b .d s

/-- `MOV B,E` (40_data_moves.md R110). -/
def execMovBE (s : State) : Out := moveRR .b .e s

/-- `MOV B,H` (40_data_moves.md R110). -/
def execMovBH (s : State) : Out := moveRR .b .h s

/-- `MOV B,L` (40_data_moves.md R110). -/
def execMovBL (s : State) : Out := moveRR .b .l s

/-- `MOV B,M` (40_data_moves.md R111). -/
def execMovBM (s : State) : Out := loadRM .b s

/-- `MOV B,A` (40_data_moves.md R110). -/
def execMovBA (s : State) : Out := moveRR .b .a s

/-- `MOV C,B` (40_data_moves.md R110). -/
def execMovCB (s : State) : Out := moveRR .c .b s

/-- `MOV C,C` (40_data_moves.md R110). -/
def execMovCC (s : State) : Out := moveRR .c .c s

/-- `MOV C,D` (40_data_moves.md R110). -/
def execMovCD (s : State) : Out := moveRR .c .d s

/-- `MOV C,E` (40_data_moves.md R110). -/
def execMovCE (s : State) : Out := moveRR .c .e s

/-- `MOV C,H` (40_data_moves.md R110). -/
def execMovCH (s : State) : Out := moveRR .c .h s

/-- `MOV C,L` (40_data_moves.md R110). -/
def execMovCL (s : State) : Out := moveRR .c .l s

/-- `MOV C,M` (40_data_moves.md R111). -/
def execMovCM (s : State) : Out := loadRM .c s

/-- `MOV C,A` (40_data_moves.md R110). -/
def execMovCA (s : State) : Out := moveRR .c .a s

/-- `MOV D,B` (40_data_moves.md R110). -/
def execMovDB (s : State) : Out := moveRR .d .b s

/-- `MOV D,C` (40_data_moves.md R110). -/
def execMovDC (s : State) : Out := moveRR .d .c s

/-- `MOV D,D` (40_data_moves.md R110). -/
def execMovDD (s : State) : Out := moveRR .d .d s

/-- `MOV D,E` (40_data_moves.md R110). -/
def execMovDE (s : State) : Out := moveRR .d .e s

/-- `MOV D,H` (40_data_moves.md R110). -/
def execMovDH (s : State) : Out := moveRR .d .h s

/-- `MOV D,L` (40_data_moves.md R110). -/
def execMovDL (s : State) : Out := moveRR .d .l s

/-- `MOV D,M` (40_data_moves.md R111). -/
def execMovDM (s : State) : Out := loadRM .d s

/-- `MOV D,A` (40_data_moves.md R110). -/
def execMovDA (s : State) : Out := moveRR .d .a s

/-- `MOV E,B` (40_data_moves.md R110). -/
def execMovEB (s : State) : Out := moveRR .e .b s

/-- `MOV E,C` (40_data_moves.md R110). -/
def execMovEC (s : State) : Out := moveRR .e .c s

/-- `MOV E,D` (40_data_moves.md R110). -/
def execMovED (s : State) : Out := moveRR .e .d s

/-- `MOV E,E` (40_data_moves.md R110). -/
def execMovEE (s : State) : Out := moveRR .e .e s

/-- `MOV E,H` (40_data_moves.md R110). -/
def execMovEH (s : State) : Out := moveRR .e .h s

/-- `MOV E,L` (40_data_moves.md R110). -/
def execMovEL (s : State) : Out := moveRR .e .l s

/-- `MOV E,M` (40_data_moves.md R111). -/
def execMovEM (s : State) : Out := loadRM .e s

/-- `MOV E,A` (40_data_moves.md R110). -/
def execMovEA (s : State) : Out := moveRR .e .a s

/-- `MOV H,B` (40_data_moves.md R110). -/
def execMovHB (s : State) : Out := moveRR .h .b s

/-- `MOV H,C` (40_data_moves.md R110). -/
def execMovHC (s : State) : Out := moveRR .h .c s

/-- `MOV H,D` (40_data_moves.md R110). -/
def execMovHD (s : State) : Out := moveRR .h .d s

/-- `MOV H,E` (40_data_moves.md R110). -/
def execMovHE (s : State) : Out := moveRR .h .e s

/-- `MOV H,H` (40_data_moves.md R110). -/
def execMovHH (s : State) : Out := moveRR .h .h s

/-- `MOV H,L` (40_data_moves.md R110). -/
def execMovHL (s : State) : Out := moveRR .h .l s

/-- `MOV H,M` (40_data_moves.md R111). -/
def execMovHM (s : State) : Out := loadRM .h s

/-- `MOV H,A` (40_data_moves.md R110). -/
def execMovHA (s : State) : Out := moveRR .h .a s

/-- `MOV L,B` (40_data_moves.md R110). -/
def execMovLB (s : State) : Out := moveRR .l .b s

/-- `MOV L,C` (40_data_moves.md R110). -/
def execMovLC (s : State) : Out := moveRR .l .c s

/-- `MOV L,D` (40_data_moves.md R110). -/
def execMovLD (s : State) : Out := moveRR .l .d s

/-- `MOV L,E` (40_data_moves.md R110). -/
def execMovLE (s : State) : Out := moveRR .l .e s

/-- `MOV L,H` (40_data_moves.md R110). -/
def execMovLH (s : State) : Out := moveRR .l .h s

/-- `MOV L,L` (40_data_moves.md R110). -/
def execMovLL (s : State) : Out := moveRR .l .l s

/-- `MOV L,M` (40_data_moves.md R111). -/
def execMovLM (s : State) : Out := loadRM .l s

/-- `MOV L,A` (40_data_moves.md R110). -/
def execMovLA (s : State) : Out := moveRR .l .a s

/-- `MOV M,B` (40_data_moves.md R112). -/
def execMovMB (s : State) : Out := storeMR .b s

/-- `MOV M,C` (40_data_moves.md R112). -/
def execMovMC (s : State) : Out := storeMR .c s

/-- `MOV M,D` (40_data_moves.md R112). -/
def execMovMD (s : State) : Out := storeMR .d s

/-- `MOV M,E` (40_data_moves.md R112). -/
def execMovME (s : State) : Out := storeMR .e s

/-- `MOV M,H` (40_data_moves.md R112). -/
def execMovMH (s : State) : Out := storeMR .h s

/-- `MOV M,L` (40_data_moves.md R112). -/
def execMovML (s : State) : Out := storeMR .l s

/-- `MOV M,A` (40_data_moves.md R112). -/
def execMovMA (s : State) : Out := storeMR .a s

/-- `MOV A,B` (40_data_moves.md R110). -/
def execMovAB (s : State) : Out := moveRR .a .b s

/-- `MOV A,C` (40_data_moves.md R110). -/
def execMovAC (s : State) : Out := moveRR .a .c s

/-- `MOV A,D` (40_data_moves.md R110). -/
def execMovAD (s : State) : Out := moveRR .a .d s

/-- `MOV A,E` (40_data_moves.md R110). -/
def execMovAE (s : State) : Out := moveRR .a .e s

/-- `MOV A,H` (40_data_moves.md R110). -/
def execMovAH (s : State) : Out := moveRR .a .h s

/-- `MOV A,L` (40_data_moves.md R110). -/
def execMovAL (s : State) : Out := moveRR .a .l s

/-- `MOV A,M` (40_data_moves.md R111). -/
def execMovAM (s : State) : Out := loadRM .a s

/-- `MOV A,A` (40_data_moves.md R110). -/
def execMovAA (s : State) : Out := moveRR .a .a s

/-- `XCHG` (40_data_moves.md R122). -/
def execXchg (s : State) : Out := .next ((s.set16 .hl (s.get16 .de)).set16 .de (s.get16 .hl))

/-- `SPHL` (40_data_moves.md R123). -/
def execSphl (s : State) : Out := .next (s.set16 .sp (s.get16 .hl))

end Sys2Proof.Machine
end

