-- ==== Sys2Proof/Machine/IncDec.lean ====
section
/-! DEFINITION. Increment, decrement and 16-bit add (41_inc_dec_dad.md). -/

namespace Sys2Proof.Machine

/-! ## Shared operations -/

/-- `INR` of a register or of `M`: AC, then the write, then Z, S, P of the computed byte (41_inc_dec_dad.md R130, R131). -/
def increment (x : R8Sel) (s : State) : Out :=
  (readR8 x s).out fun v s1 =>
  (writeR8 x (v + 1) (s1.setFlag .ac (acIncrement v))).out fun _ s2 => .next (s2.setZsp (v + 1))

/-- `DCR` of a register or of `M` (41_inc_dec_dad.md R132, R133). -/
def decrement (x : R8Sel) (s : State) : Out :=
  (readR8 x s).out fun v s1 =>
  (writeR8 x (v - 1) (s1.setFlag .ac (acDecrement v))).out fun _ s2 => .next (s2.setZsp (v - 1))

/-- `DAD`: only `C` is written, either way (41_inc_dec_dad.md R136). -/
def addToHl (v : Word) (s : State) : State :=
  (s.setFlag .c (decide (0xFFFF < (s.get16 .hl).toNat + v.toNat))).set16 .hl (s.get16 .hl + v)

/-! ## Meanings -/

/-- `INX B` (41_inc_dec_dad.md R134). -/
def execInxB (s : State) : Out := .next (s.set16 .bc (s.get16 .bc + 1))

/-- `INR B` (41_inc_dec_dad.md R130). -/
def execInrB (s : State) : Out := increment (.reg .b) s

/-- `DCR B` (41_inc_dec_dad.md R132). -/
def execDcrB (s : State) : Out := decrement (.reg .b) s

/-- `DAD B` (41_inc_dec_dad.md R136). -/
def execDadB (s : State) : Out := .next (addToHl (s.get16 .bc) s)

/-- `DCX B` (41_inc_dec_dad.md R135). -/
def execDcxB (s : State) : Out := .next (s.set16 .bc (s.get16 .bc - 1))

/-- `INR C` (41_inc_dec_dad.md R130). -/
def execInrC (s : State) : Out := increment (.reg .c) s

/-- `DCR C` (41_inc_dec_dad.md R132). -/
def execDcrC (s : State) : Out := decrement (.reg .c) s

/-- `INX D` (41_inc_dec_dad.md R134). -/
def execInxD (s : State) : Out := .next (s.set16 .de (s.get16 .de + 1))

/-- `INR D` (41_inc_dec_dad.md R130). -/
def execInrD (s : State) : Out := increment (.reg .d) s

/-- `DCR D` (41_inc_dec_dad.md R132). -/
def execDcrD (s : State) : Out := decrement (.reg .d) s

/-- `DAD D` (41_inc_dec_dad.md R136). -/
def execDadD (s : State) : Out := .next (addToHl (s.get16 .de) s)

/-- `DCX D` (41_inc_dec_dad.md R135). -/
def execDcxD (s : State) : Out := .next (s.set16 .de (s.get16 .de - 1))

/-- `INR E` (41_inc_dec_dad.md R130). -/
def execInrE (s : State) : Out := increment (.reg .e) s

/-- `DCR E` (41_inc_dec_dad.md R132). -/
def execDcrE (s : State) : Out := decrement (.reg .e) s

/-- `INX H` (41_inc_dec_dad.md R134). -/
def execInxH (s : State) : Out := .next (s.set16 .hl (s.get16 .hl + 1))

/-- `INR H` (41_inc_dec_dad.md R130). -/
def execInrH (s : State) : Out := increment (.reg .h) s

/-- `DCR H` (41_inc_dec_dad.md R132). -/
def execDcrH (s : State) : Out := decrement (.reg .h) s

/-- `DAD H` (41_inc_dec_dad.md R136). -/
def execDadH (s : State) : Out := .next (addToHl (s.get16 .hl) s)

/-- `DCX H` (41_inc_dec_dad.md R135). -/
def execDcxH (s : State) : Out := .next (s.set16 .hl (s.get16 .hl - 1))

/-- `INR L` (41_inc_dec_dad.md R130). -/
def execInrL (s : State) : Out := increment (.reg .l) s

/-- `DCR L` (41_inc_dec_dad.md R132). -/
def execDcrL (s : State) : Out := decrement (.reg .l) s

/-- `INX SP` (41_inc_dec_dad.md R134). -/
def execInxSp (s : State) : Out := .next (s.set16 .sp (s.get16 .sp + 1))

/-- `INR M` (41_inc_dec_dad.md R131). -/
def execInrM (s : State) : Out := increment .m s

/-- `DCR M` (41_inc_dec_dad.md R133). -/
def execDcrM (s : State) : Out := decrement .m s

/-- `DAD SP` (41_inc_dec_dad.md R136). -/
def execDadSp (s : State) : Out := .next (addToHl (s.get16 .sp) s)

/-- `DCX SP` (41_inc_dec_dad.md R135). -/
def execDcxSp (s : State) : Out := .next (s.set16 .sp (s.get16 .sp - 1))

/-- `INR A` (41_inc_dec_dad.md R130). -/
def execInrA (s : State) : Out := increment (.reg .a) s

/-- `DCR A` (41_inc_dec_dad.md R132). -/
def execDcrA (s : State) : Out := decrement (.reg .a) s

end Sys2Proof.Machine
end

