-- ==== Sys2Proof/Machine/Rotate.lean ====
section
/-! DEFINITION. Rotates, decimal adjust, complement, carry and no operation (43_rotate_daa_misc.md). -/

namespace Sys2Proof.Machine

/-! ## Shared operations -/

/-- `(a << 1) | b` (43_rotate_daa_misc.md R170, R172). -/
def rotl (a : Byte) (b : Bool) : Byte := (a <<< 1) ||| BitVec.ofNat 8 b.toNat

/-- `(a >> 1) | (b << 7)` (43_rotate_daa_misc.md R171, R173). -/
def rotr (a : Byte) (b : Bool) : Byte := (a >>> 1) ||| (BitVec.ofNat 8 b.toNat <<< 7)

/-! ## Meanings -/

/-- `NOP` (43_rotate_daa_misc.md R178). -/
def execNop (s : State) : Out := .next s

/-- `RLC` (43_rotate_daa_misc.md R170). -/
def execRlc (s : State) : Out := .next ((s.setAcc (rotl s.acc (s.acc.getLsbD 7))).setFlag .c (s.acc.getLsbD 7))

/-- `RRC` (43_rotate_daa_misc.md R171). -/
def execRrc (s : State) : Out := .next ((s.setAcc (rotr s.acc (s.acc.getLsbD 0))).setFlag .c (s.acc.getLsbD 0))

/-- `RAL` (43_rotate_daa_misc.md R172). -/
def execRal (s : State) : Out := .next ((s.setAcc (rotl s.acc (s.flag .c))).setFlag .c (s.acc.getLsbD 7))

/-- `RAR` (43_rotate_daa_misc.md R173). -/
def execRar (s : State) : Out := .next ((s.setAcc (rotr s.acc (s.flag .c))).setFlag .c (s.acc.getLsbD 0))

/-- `DAA` (43_rotate_daa_misc.md R174). -/
def execDaa (s : State) : Out := .next (aluDaa s)

/-- `CMA` (43_rotate_daa_misc.md R175). -/
def execCma (s : State) : Out := .next (s.setAcc (s.acc ^^^ 0xFF))

/-- `STC` (43_rotate_daa_misc.md R177). -/
def execStc (s : State) : Out := .next (s.setFlag .c true)

/-- `CMC` (43_rotate_daa_misc.md R176). -/
def execCmc (s : State) : Out := .next (s.setFlag .c (!s.flag .c))

end Sys2Proof.Machine
end

