-- ==== Sys2Proof/Machine/StackIo.lean ====
section
/-! DEFINITION. Stack, port I/O, interrupt enable and halt (45_stack_io_control.md). -/

namespace Sys2Proof.Machine

/-! ## Shared operations -/

/-- `Push16(RPP[pp])` (45_stack_io_control.md R202, R203). -/
def pushPair (x : StackPair) (s : State) : Out := (push16 (s.get16 (stackCell x)) s).done

/-- `RPP[pp] <- Pop16()`; the write to `AF` passes through the flag mask (45_stack_io_control.md R204, R205). -/
def popPair (x : StackPair) (s : State) : Out := (pop16 s).out fun v s1 => .next (s1.set16 (stackCell x) v)

/-- `XTHL`: both reads, then both writes, then `HL` (45_stack_io_control.md R206). -/
def exchangeTop (s : State) : Out :=
  (memRead2 (s.get16 .sp) s).out fun v s1 =>
  (memWrite2 (s.get16 .sp) (s.get16 .hl) s1).out fun _ s2 => .next (s2.set16 .hl v)

/-! ## Meanings -/

/-- `HLT` (45_stack_io_control.md R211). -/
def execHlt (s : State) : Out := .next { s with halted := true }

/-- `POP B` (45_stack_io_control.md R204). -/
def execPopB (s : State) : Out := popPair .bc s

/-- `PUSH B` (45_stack_io_control.md R202). -/
def execPushB (s : State) : Out := pushPair .bc s

/-- `POP D` (45_stack_io_control.md R204). -/
def execPopD (s : State) : Out := popPair .de s

/-- `OUT d8` (45_stack_io_control.md R208). -/
def execOutPort (d8 : Byte) (s : State) : Out := (ioWrite d8 s.acc s).done

/-- `PUSH D` (45_stack_io_control.md R202). -/
def execPushD (s : State) : Out := pushPair .de s

/-- `IN d8` (45_stack_io_control.md R207). -/
def execInPort (d8 : Byte) (s : State) : Out := (ioRead d8 s).out fun v s1 => .next (s1.setAcc v)

/-- `POP H` (45_stack_io_control.md R204). -/
def execPopH (s : State) : Out := popPair .hl s

/-- `XTHL` (45_stack_io_control.md R206). -/
def execXthl (s : State) : Out := exchangeTop s

/-- `PUSH H` (45_stack_io_control.md R202). -/
def execPushH (s : State) : Out := pushPair .hl s

/-- `POP PSW` (45_stack_io_control.md R205). -/
def execPopPsw (s : State) : Out := popPair .psw s

/-- `DI` (45_stack_io_control.md R210). -/
def execDi (s : State) : Out := .next { s with interruptsEnabled := false }

/-- `PUSH PSW` (45_stack_io_control.md R203). -/
def execPushPsw (s : State) : Out := pushPair .psw s

/-- `EI` (45_stack_io_control.md R209). -/
def execEi (s : State) : Out := .next { s with interruptsEnabled := true }

end Sys2Proof.Machine
end

