-- ==== Sys2Proof/Machine/Undefined.lean ====
section
/-! DEFINITION. The twelve undefined bytes (30_encoding.md R92, 60_exceptions.md R261). -/

namespace Sys2Proof.Machine

/-- One of the twelve undefined bytes: "Undefined opcodes are fatal" (30_encoding.md R92, 60_exceptions.md R261); `pc` is already
past the byte and nothing else has changed. -/
def execUndefinedOpcode (op : Byte) (s : State) : Out := .fault (.unknownOpcode op s)

end Sys2Proof.Machine
end

