-- ==== Sys2Proof/Machine/Cpu.lean ====
section
/-! DEFINITION. Fetching and executing an instruction (30_encoding.md R80 to R83), the pseudo-BDOS hook (60_exceptions.md R285
to R288), the boundary check and interrupt acceptance (R271 to R275), and the run loop (R272). -/

namespace Sys2Proof.Machine

/-! ## Fetch and execute -/

/-- The instruction of opcode `op`, its operand bytes fetched from the current fetch source in the order they stand
(30_encoding.md R81, R83). -/
def fetchOperands (op : Byte) (s : State) : Act Instr :=
  match operandCount op with
  | 0 => .ok (decodeOp op 0 0, s)
  | 1 => (fetch8 s).andThen fun b2 s1 => .ok (decodeOp op b2 0, s1)
  | _ => (fetch8 s).andThen fun b2 s1 => (fetch8 s1).andThen fun b3 s2 => .ok (decodeOp op b2 b3, s2)

/-- The whole instruction at the fetch source: opcode, then operands. -/
def fetchInstr (s : State) : Act Instr := (fetch8 s).andThen fetchOperands

/-- `Execute(op)` (30_encoding.md R83). -/
def execute (op : Byte) (s : State) : Out := (fetchOperands op s).out exec

/-! ## The pseudo-BDOS shim -/

/-- Function 9: the bytes from `a` up to the first `$`, to the print sink; `n` bounds how many are read (60_exceptions.md
R287, log 9). -/
def printString : Nat → Word → State → Act Unit
  | 0, _, s => .error (.bdosStringUnterminated s)
  | n + 1, a, s =>
    match memRead a s with
    | .error f => .error f
    | .ok (b, s1) =>
      if b = 0x24 then .ok ((), s1) else printString n (a + 1) { s1 with sink := s1.sink ++ [b] }

/-- The print functions by the number in `C` (60_exceptions.md R287, R262). -/
def bdosFunction (s : State) : Act Unit :=
  if s.get8 .c = 0x02 then .ok ((), { s with sink := s.sink ++ [s.get8 .e] })
  else if s.get8 .c = 0x09 then printString bdosStringBound (s.get16 .de) s
  else .error (.invalidBdosCall (s.get8 .c) s)

/-- The hook at `pc = 0x0005`: print, consume one byte, return (60_exceptions.md R287). -/
def bdosCall (s : State) : Act Unit :=
  (bdosFunction s).andThen fun _ s1 => (fetch8 s1).andThen fun _ s2 => returnFromCall s2

/-- The hook at `pc = 0x0000`: the first visit clears `just_booted`, a later one writes `HLT` there (60_exceptions.md
R286). -/
def bdosBoot (s : State) : Act Unit :=
  if s.justBooted then .ok ((), { s with justBooted := false }) else memWrite 0x0000 0x76 s

/-- `BdosHook()`: the answer is true when the hook has replaced the step's instruction (30_encoding.md R82). -/
def bdosHook (s : State) : Act Bool :=
  if s.get16 .pc = 0x0000 then (bdosBoot s).andThen fun _ s1 => .ok (false, s1)
  else if s.get16 .pc = 0x0005 then (bdosCall s).andThen fun _ s1 => .ok (true, s1)
  else .ok (false, s)

/-! ## Step -/

/-- Fetch and execute one instruction. -/
def runInstr (s : State) : Out := (fetchInstr s).out exec

/-- `Step()` (30_encoding.md R82): a halted machine does nothing. -/
def cpuStep (s : State) : Out :=
  if s.halted then .next s
  else if s.params.pseudoBdos then (bdosHook s).out fun handled s1 => if handled then .next s1 else runInstr s1
  else runInstr s

/-! ## Interrupts -/

/-- `bus.is_irq()` (60_exceptions.md R271). -/
def busIsIrq (s : State) : Bool := (irqSlots s.params s.slots).isSome

/-- The errors of the operations of the host (60_exceptions.md R266). -/
inductive HostError where
  | invalidArgument
  /-- Also called `InvalidSlot` (`90_conflicts.md` C17). -/
  | outOfRange
  | slotOccupied
  | conflict
  | noIrq
  deriving DecidableEq, Repr

/-- `bus.get_irq()` (60_exceptions.md R271): `NoIrq` when no card raises its request (R263). -/
def busGetIrq (s : State) : Except HostError IrqInst :=
  match irqSlots s.params s.slots with
  | some inst => .ok inst
  | none => .error .noIrq

/-- The cards are asked for their request lines at a boundary check (60_exceptions.md R270, R273, log 7). -/
def askCards (s : State) : State := { s with slots := mapCards Card.asked s.slots }

/-- What the boundary check decides, with the state after it. -/
inductive Boundary where
  /-- An interrupt is accepted, with these three bytes. -/
  | accept (inst : IrqInst) (s : State)
  /-- No interrupt is accepted. -/
  | go (s : State)
  deriving DecidableEq, Repr

/-- The boundary check: `interrupts_enabled` and then `BusIsIrq()` (60_exceptions.md R272, R273). -/
def boundaryCheck (s : State) : Boundary :=
  if s.interruptsEnabled then
    match irqSlots s.params (askCards s).slots with
    | some inst => .accept inst (askCards s)
    | none => .go (askCards s)
  else .go s

/-- `AcceptInterrupt()` (60_exceptions.md R274). -/
def acceptInterrupt (inst : IrqInst) (s : State) : Out :=
  (enterInterrupt inst s).out fun _ s1 =>
    match execute inst.b0 s1 with
    | .next s2 => .next (leaveInterrupt s2)
    | .fault f => .fault f
    | .refused r => .refused r

/-- One step of the machine: refresh, the boundary check, then either one acceptance or one `Step()`. It cuts the run loop
of 60_exceptions.md R272 into steps (log 5). -/
def machineStep (s : State) : Out :=
  match boundaryCheck (busRefresh s) with
  | .accept inst s1 => acceptInterrupt inst s1
  | .go s1 => cpuStep s1

/-! ## The run loop -/

/-- The `while` of the run loop: acceptances until the boundary check finds none; no answer when `n` of them do not end it
(60_exceptions.md R272, R274). -/
def acceptWhile : Nat → State → Option Out
  | 0, s =>
    match boundaryCheck s with
    | .go s1 => some (.next s1)
    | .accept _ _ => none
  | n + 1, s =>
    match boundaryCheck s with
    | .go s1 => some (.next s1)
    | .accept inst s1 =>
      match acceptInterrupt inst s1 with
      | .next s2 => acceptWhile n (busRefresh s2)
      | .fault f => some (.fault f)
      | .refused r => some (.refused r)

/-- `Cycle()` (60_exceptions.md R272), with at most `n` acceptances. -/
def cycle (n : Nat) (s : State) : Option Out :=
  match cpuStep s with
  | .next s1 => acceptWhile n (busRefresh s1)
  | .fault f => some (.fault f)
  | .refused r => some (.refused r)

/-- `Run()` (60_exceptions.md R272): cycles until the machine has halted; no answer when `m` cycles do not end it. -/
def runLoop : Nat → Nat → State → Option Out
  | 0, _, s => if s.halted then some (.next s) else none
  | m + 1, n, s =>
    if s.halted then some (.next s)
    else
      match cycle n s with
      | some (.next t) => runLoop m n t
      | some (.fault f) => some (.fault f)
      | some (.refused r) => some (.refused r)
      | none => none

end Sys2Proof.Machine
end

