-- ==== Sys2Proof/Machine/Loader.lean ====
section
/-! DEFINITION. The operations of the host: construction of cards, insert and remove (20_memory.md R42, R43,
70_reset_and_hazards.md R302), CPU reset and bus clear (R300, R301), and the loader (R305). -/

namespace Sys2Proof.Machine

/-! ## Construction -/

/-- A new data card: `init`, then `FILL_BYTE`; it fails when `init` is longer than the capacity (20_memory.md R46). -/
def DataCard.construct (startAdr : Word) (adrRange : Nat) (isIo writeLocked : Bool) (init : List Byte) (fill : Byte) :
    Except HostError DataCard :=
  if adrRange < init.length then .error .invalidArgument
  else .ok { startAdr := startAdr, adrRange := adrRange, isIo := isIo, writeLocked := writeLocked, fill := fill,
             mem := Memory.ofBytes fill init }

/-! ## The slot registry (20_memory.md R42 to R44) -/

/-- The descriptor range `(start, range)` of a card; `(start_adr, 2)` for a serial card (20_memory.md R42). -/
def Card.descriptor : Card → Nat × Nat
  | .data c => (c.startAdr.toNat, c.adrRange)
  | .serial c => (c.startAdr.toNat, 2)
  | .other c => (c.startAdr.toNat, c.adrRange)

/-- Two cards of the same space whose descriptor ranges overlap (20_memory.md R42). -/
def Card.overlaps (c d : Card) : Bool :=
  c.isIo == d.isIo &&
    decide (c.descriptor.1 < d.descriptor.1 + d.descriptor.2 ∧ d.descriptor.1 < c.descriptor.1 + c.descriptor.2)

/-- A serial card's base must be at most `0xFE` (50_acia_6850.md R221). -/
def Card.acceptable : Card → Bool
  | .data _ => true
  | .serial c => decide (c.base ≤ 0xFE)
  | .other _ => true

/-- Some card already in the bus forbids the overlap with `c`: its own slot's `allow_conflict` is false (20_memory.md R42,
`90_conflicts.md` C15). -/
def conflicts (c : Card) (slots : List (Option Slot)) : Bool :=
  slots.any fun
    | none => false
    | some sl => !sl.allowConflict && c.overlaps sl.card

/-- `insert(card, slot, allow_conflict)`: the checks of 20_memory.md R42 in their order (log 13); a failure changes
nothing. -/
def insertCard (card : Option Card) (n : Nat) (allowConflict : Bool) (s : State) : Except HostError State :=
  match card with
  | none => .error .invalidArgument
  | some c =>
    if !c.acceptable then .error .invalidArgument
    else if nSlots ≤ n then .error .outOfRange
    else if (s.slots[n]?.join).isSome then .error .slotOccupied
    else if conflicts c s.slots then .error .conflict
    else .ok { s with slots := s.slots.set n (some { card := c, allowConflict := allowConflict }) }

/-- `remove(slot)` (20_memory.md R43). -/
def removeCard (n : Nat) (s : State) : Except HostError State :=
  if nSlots ≤ n then .error .outOfRange else .ok { s with slots := s.slots.set n none }

/-! ## Reset -/

/-- `cpu.clear()` (70_reset_and_hazards.md R300): no card, endpoint or sink is touched. -/
def cpuClear (s : State) : State :=
  { s with regs := { Regs.reset with pc := s.params.startPc }, halted := false, interruptsEnabled := false,
           justBooted := true, irqQueue := [] }

/-- `bus.clear()` (70_reset_and_hazards.md R301). -/
def busClear (s : State) : State := { s with slots := mapCards Card.clear s.slots }

/-- A machine with the parameters `p` and no card, its CPU just created (70_reset_and_hazards.md R302). -/
def powerOn (p : Params) : State := cpuClear { State.reset with params := p }

/-! ## The loader (70_reset_and_hazards.md R305) -/

/-- The bytes written from `a` on through `BusWriteForce`. -/
def writeImage : List Byte → Word → State → Act Unit
  | [], _, s => .ok ((), s)
  | b :: rest, a, s => (busWriteForce a b false s).andThen fun _ s1 => writeImage rest (a + 1) s1

/-- What stops a load: an error before the first write, or an endpoint failure during one. -/
inductive LoadError where
  | host (e : HostError)
  | fault (f : Fault)
  deriving DecidableEq, Repr

/-- `load(bytes, offset, auto_reset_vector)`: all checks come before the first write (70_reset_and_hazards.md R305). -/
def load (bytes : List Byte) (offset : Word) (autoResetVector : Bool) (s : State) : Except LoadError State :=
  if bytes.length = 0 then .error (.host .invalidArgument)
  else if 0x10000 < offset.toNat + bytes.length then .error (.host .outOfRange)
  else if autoResetVector && decide (offset.toNat < 3) then .error (.host .outOfRange)
  else
    let vector := if autoResetVector then [0xC3, lo8 offset, hi8 offset] else []
    match (writeImage bytes offset s).andThen fun _ s1 => writeImage vector 0x0000 s1 with
    | .ok (_, s1) => .ok s1
    | .error f => .error (.fault f)

/-! ## A machine that holds a program -/

/-- A RAM card of 65536 bytes at `0x0000` in the memory space that holds `mem` over bytes `0x00`: the card of the "flat"
test machine (95_test_vectors.md). -/
def flatRam (mem : Memory) : Slot where
  card := .data { startAdr := 0x0000, adrRange := 0x10000, isIo := false, writeLocked := false, fill := 0x00, mem := mem }
  allowConflict := false

/-- The flat test machine of 95_test_vectors.md: one RAM card of 65536 zero bytes in slot 0, the parameters `p`. -/
def flatMachine (p : Params) : State :=
  { powerOn p with slots := some (flatRam []) :: List.replicate 17 none }

/-- The bytes `bs` are what a fetch from `a` on reads, from data cards. -/
def servesBytes : List Byte → Word → State → Bool
  | [], _, _ => true
  | b :: rest, a, s => (s.peek false a == some b) && servesBytes rest (a + 1) s

/-- The bytes `bs` put where a fetch from `a` on reads them: forced into the cards that answer there, or, when no data card
answers there, into a flat RAM card bound to slot 0 (log 15). -/
def placeCode (bs : List Byte) (a : Word) (s : State) : State :=
  let ram := { s with slots := s.slots.set 0 (some (flatRam [])) }
  let put (t : State) : State :=
    match writeImage bs a t with
    | .ok (_, t1) => t1
    | .error _ => t
  if servesBytes bs a (put s) then put s else put ram

/-- What stands between the next step and a plain fetch from memory is taken away: a halted CPU, a filled operand buffer, an
interrupt about to be accepted, the shim where it would write over or replace the instruction (log 15). -/
def readyToFetch (s : State) : State :=
  { s with
    halted := false
    irqQueue := []
    interruptsEnabled := s.interruptsEnabled && !busIsIrq (askCards s)
    params := { s.params with
      pseudoBdos := s.params.pseudoBdos && decide (s.get16 .pc ≠ 0x0005 ∧ (s.get16 .pc ≠ 0x0000 ∨ s.justBooted = true)) } }

/-- The instruction bytes placed at `pc`, and the machine ready to fetch them. -/
def placeInstruction (bs : List Byte) (s : State) : State :=
  placeCode bs (s.get16 .pc) (readyToFetch s)

end Sys2Proof.Machine
end

