-- ==== Sys2Proof/Machine/Step.lean ====
section
/-! DEFINITION. The machine's step and where its next instruction is fetched from. -/

namespace Sys2Proof.Machine

/-- One step of the machine (`machineStep`). -/
def step (s : State) : Host.Outcome State Fault Refusal := machineStep s

/-- The instruction of the table word `w` of `nbits` bits, the bits above `nbits` zero, stored where `step` fetches its next
instruction: in the memory space at `pc` (log 15). -/
def State.withFetchWord (s : State) (nbits w : Nat) : State := placeInstruction (tableBytes nbits w) s

end Sys2Proof.Machine
end

