-- ==== Sys2Proof/Safety.lean ====
section
/-! DEFINITION. The terms of the claims: what each instruction may write, the frames, and the invariants. -/

namespace Sys2Proof

/-! ## The codes of the selector tables (30_encoding.md R85 to R88) -/

/-- "Codes: 0 `B`, 1 `C`, 2 `D`, 3 `E`, 4 `H`, 5 `L`, 6 `M`, 7 `A`" (30_encoding.md R86). -/
def Reg8.code : Reg8 → BitVec 3
  | .b => 0 | .c => 1 | .d => 2 | .e => 3 | .h => 4 | .l => 5 | .a => 7

/-- The same table with `M` (30_encoding.md R86). -/
def R8Sel.code : R8Sel → BitVec 3
  | .reg r => r.code
  | .m => 6

/-- `RP = {BC, DE, HL, SP}` (30_encoding.md R85). -/
def RegPair.code : RegPair → BitVec 2
  | .bc => 0 | .de => 1 | .hl => 2 | .sp => 3

/-- RP with `AF` for `SP` (30_encoding.md R85). -/
def StackPair.code : StackPair → BitVec 2
  | .bc => 0 | .de => 1 | .hl => 2 | .psw => 3

/-- The bit `p` of `LDAX` and `STAX` (40_data_moves.md R118, R119). -/
def IndexPair.code : IndexPair → BitVec 1
  | .bc => 0 | .de => 1

/-- The ALU codes 0 to 7 (30_encoding.md R87). -/
def AluOp.code : AluOp → BitVec 3
  | .add => 0 | .adc => 1 | .sub => 2 | .sbb => 3 | .ana => 4 | .xra => 5 | .ora => 6 | .cmp => 7

/-- The condition codes 0 to 7 (30_encoding.md R88). -/
def Cond.code : Cond → BitVec 3
  | .nz => 0 | .z => 1 | .nc => 2 | .c => 3 | .po => 4 | .pe => 5 | .p => 6 | .m => 7

end Sys2Proof

namespace Sys2Proof.Machine

/-! ## What an instruction may write, read off the spec -/

/-- The flags an instruction writes (10_state.md R17). -/
def flagsWritten : Instr → List Flag
  | .nop | .lxiB _ | .staxB | .inxB | .mviB _ | .undefinedOpcode _ | .ldaxB | .dcxB | .mviC _ => []
  | .lxiD _ | .staxD | .inxD | .mviD _ | .ldaxD | .dcxD | .mviE _ | .lxiH _ | .shld _ => []
  | .inxH | .mviH _ | .lhld _ | .dcxH | .mviL _ | .cma | .lxiSp _ | .sta _ | .inxSp => []
  | .mviM _ | .lda _ | .dcxSp | .mviA _ | .movBB | .movBC | .movBD | .movBE | .movBH => []
  | .movBL | .movBM | .movBA | .movCB | .movCC | .movCD | .movCE | .movCH | .movCL => []
  | .movCM | .movCA | .movDB | .movDC | .movDD | .movDE | .movDH | .movDL | .movDM => []
  | .movDA | .movEB | .movEC | .movED | .movEE | .movEH | .movEL | .movEM | .movEA => []
  | .movHB | .movHC | .movHD | .movHE | .movHH | .movHL | .movHM | .movHA | .movLB => []
  | .movLC | .movLD | .movLE | .movLH | .movLL | .movLM | .movLA | .movMB | .movMC => []
  | .movMD | .movME | .movMH | .movML | .hlt | .movMA | .movAB | .movAC | .movAD => []
  | .movAE | .movAH | .movAL | .movAM | .movAA | .rnz | .popB | .jnz _ | .jmp _ => []
  | .cnz _ | .pushB | .rst0 | .rz | .ret | .jz _ | .cz _ | .call _ | .rst1 => []
  | .rnc | .popD | .jnc _ | .outPort _ | .cnc _ | .pushD | .rst2 | .rc | .jc _ => []
  | .inPort _ | .cc _ | .rst3 | .rpo | .popH | .jpo _ | .xthl | .cpo _ | .pushH => []
  | .rst4 | .rpe | .pchl | .jpe _ | .xchg | .cpe _ | .rst5 | .rp | .jp _ => []
  | .di | .cp _ | .pushPsw | .rst6 | .rm | .sphl | .jm _ | .ei | .cm _ => []
  | .rst7 => []
  | .inrB | .dcrB | .inrC | .dcrC | .inrD | .dcrD | .inrE | .dcrE | .inrH => [.z, .s, .p, .ac]
  | .dcrH | .inrL | .dcrL | .inrM | .dcrM | .inrA | .dcrA => [.z, .s, .p, .ac]
  | .rlc | .dadB | .rrc | .ral | .dadD | .rar | .dadH | .stc | .dadSp => [.c]
  | .cmc => [.c]
  | .daa | .addB | .addC | .addD | .addE | .addH | .addL | .addM | .addA => [.c, .p, .ac, .z, .s]
  | .adcB | .adcC | .adcD | .adcE | .adcH | .adcL | .adcM | .adcA | .subB => [.c, .p, .ac, .z, .s]
  | .subC | .subD | .subE | .subH | .subL | .subM | .subA | .sbbB | .sbbC => [.c, .p, .ac, .z, .s]
  | .sbbD | .sbbE | .sbbH | .sbbL | .sbbM | .sbbA | .anaB | .anaC | .anaD => [.c, .p, .ac, .z, .s]
  | .anaE | .anaH | .anaL | .anaM | .anaA | .xraB | .xraC | .xraD | .xraE => [.c, .p, .ac, .z, .s]
  | .xraH | .xraL | .xraM | .xraA | .oraB | .oraC | .oraD | .oraE | .oraH => [.c, .p, .ac, .z, .s]
  | .oraL | .oraM | .oraA | .cmpB | .cmpC | .cmpD | .cmpE | .cmpH | .cmpL => [.c, .p, .ac, .z, .s]
  | .cmpM | .cmpA | .adi _ | .aci _ | .sui _ | .sbi _ | .ani _ | .xri _ | .popPsw => [.c, .p, .ac, .z, .s]
  | .ori _ | .cpi _ => [.c, .p, .ac, .z, .s]

/-- The 8-bit registers an instruction writes (the rule of each instruction, 40_data_moves.md to 45_stack_io_control.md). -/
def regsWritten : Instr → List Reg8
  | .nop | .staxB | .undefinedOpcode _ | .staxD | .shld _ | .lxiSp _ | .sta _ | .inxSp | .inrM => []
  | .dcrM | .mviM _ | .stc | .dcxSp | .cmc | .movMB | .movMC | .movMD | .movME => []
  | .movMH | .movML | .hlt | .movMA | .cmpB | .cmpC | .cmpD | .cmpE | .cmpH => []
  | .cmpL | .cmpM | .cmpA | .rnz | .jnz _ | .jmp _ | .cnz _ | .pushB | .rst0 => []
  | .rz | .ret | .jz _ | .cz _ | .call _ | .rst1 | .rnc | .jnc _ | .outPort _ => []
  | .cnc _ | .pushD | .rst2 | .rc | .jc _ | .cc _ | .rst3 | .rpo | .jpo _ => []
  | .cpo _ | .pushH | .rst4 | .rpe | .pchl | .jpe _ | .cpe _ | .rst5 | .rp => []
  | .jp _ | .di | .cp _ | .pushPsw | .rst6 | .rm | .sphl | .jm _ | .ei => []
  | .cm _ | .cpi _ | .rst7 => []
  | .lxiB _ | .inxB | .dcxB | .popB => [.b, .c]
  | .inrB | .dcrB | .mviB _ | .movBB | .movBC | .movBD | .movBE | .movBH | .movBL => [.b]
  | .movBM | .movBA => [.b]
  | .rlc | .ldaxB | .rrc | .ral | .ldaxD | .rar | .daa | .cma | .lda _ => [.a]
  | .inrA | .dcrA | .mviA _ | .movAB | .movAC | .movAD | .movAE | .movAH | .movAL => [.a]
  | .movAM | .movAA | .addB | .addC | .addD | .addE | .addH | .addL | .addM => [.a]
  | .addA | .adcB | .adcC | .adcD | .adcE | .adcH | .adcL | .adcM | .adcA => [.a]
  | .subB | .subC | .subD | .subE | .subH | .subL | .subM | .subA | .sbbB => [.a]
  | .sbbC | .sbbD | .sbbE | .sbbH | .sbbL | .sbbM | .sbbA | .anaB | .anaC => [.a]
  | .anaD | .anaE | .anaH | .anaL | .anaM | .anaA | .xraB | .xraC | .xraD => [.a]
  | .xraE | .xraH | .xraL | .xraM | .xraA | .oraB | .oraC | .oraD | .oraE => [.a]
  | .oraH | .oraL | .oraM | .oraA | .adi _ | .aci _ | .sui _ | .inPort _ | .sbi _ => [.a]
  | .ani _ | .xri _ | .popPsw | .ori _ => [.a]
  | .dadB | .dadD | .lxiH _ | .inxH | .dadH | .lhld _ | .dcxH | .dadSp | .popH => [.h, .l]
  | .xthl => [.h, .l]
  | .inrC | .dcrC | .mviC _ | .movCB | .movCC | .movCD | .movCE | .movCH | .movCL => [.c]
  | .movCM | .movCA => [.c]
  | .lxiD _ | .inxD | .dcxD | .popD => [.d, .e]
  | .inrD | .dcrD | .mviD _ | .movDB | .movDC | .movDD | .movDE | .movDH | .movDL => [.d]
  | .movDM | .movDA => [.d]
  | .inrE | .dcrE | .mviE _ | .movEB | .movEC | .movED | .movEE | .movEH | .movEL => [.e]
  | .movEM | .movEA => [.e]
  | .inrH | .dcrH | .mviH _ | .movHB | .movHC | .movHD | .movHE | .movHH | .movHL => [.h]
  | .movHM | .movHA => [.h]
  | .inrL | .dcrL | .mviL _ | .movLB | .movLC | .movLD | .movLE | .movLH | .movLL => [.l]
  | .movLM | .movLA => [.l]
  | .xchg => [.d, .e, .h, .l]

/-- The instructions that may write `SP` (10_state.md R19). -/
def writesSp : Instr → Bool
  | .nop | .lxiB _ | .staxB | .inxB | .inrB | .dcrB | .mviB _ | .rlc | .undefinedOpcode _ => false
  | .dadB | .ldaxB | .dcxB | .inrC | .dcrC | .mviC _ | .rrc | .lxiD _ | .staxD => false
  | .inxD | .inrD | .dcrD | .mviD _ | .ral | .dadD | .ldaxD | .dcxD | .inrE => false
  | .dcrE | .mviE _ | .rar | .lxiH _ | .shld _ | .inxH | .inrH | .dcrH | .mviH _ => false
  | .daa | .dadH | .lhld _ | .dcxH | .inrL | .dcrL | .mviL _ | .cma | .sta _ => false
  | .inrM | .dcrM | .mviM _ | .stc | .dadSp | .lda _ | .inrA | .dcrA | .mviA _ => false
  | .cmc | .movBB | .movBC | .movBD | .movBE | .movBH | .movBL | .movBM | .movBA => false
  | .movCB | .movCC | .movCD | .movCE | .movCH | .movCL | .movCM | .movCA | .movDB => false
  | .movDC | .movDD | .movDE | .movDH | .movDL | .movDM | .movDA | .movEB | .movEC => false
  | .movED | .movEE | .movEH | .movEL | .movEM | .movEA | .movHB | .movHC | .movHD => false
  | .movHE | .movHH | .movHL | .movHM | .movHA | .movLB | .movLC | .movLD | .movLE => false
  | .movLH | .movLL | .movLM | .movLA | .movMB | .movMC | .movMD | .movME | .movMH => false
  | .movML | .hlt | .movMA | .movAB | .movAC | .movAD | .movAE | .movAH | .movAL => false
  | .movAM | .movAA | .addB | .addC | .addD | .addE | .addH | .addL | .addM => false
  | .addA | .adcB | .adcC | .adcD | .adcE | .adcH | .adcL | .adcM | .adcA => false
  | .subB | .subC | .subD | .subE | .subH | .subL | .subM | .subA | .sbbB => false
  | .sbbC | .sbbD | .sbbE | .sbbH | .sbbL | .sbbM | .sbbA | .anaB | .anaC => false
  | .anaD | .anaE | .anaH | .anaL | .anaM | .anaA | .xraB | .xraC | .xraD => false
  | .xraE | .xraH | .xraL | .xraM | .xraA | .oraB | .oraC | .oraD | .oraE => false
  | .oraH | .oraL | .oraM | .oraA | .cmpB | .cmpC | .cmpD | .cmpE | .cmpH => false
  | .cmpL | .cmpM | .cmpA | .jnz _ | .jmp _ | .adi _ | .jz _ | .aci _ | .jnc _ => false
  | .outPort _ | .sui _ | .jc _ | .inPort _ | .sbi _ | .jpo _ | .xthl | .ani _ | .pchl => false
  | .jpe _ | .xchg | .xri _ | .jp _ | .di | .ori _ | .jm _ | .ei | .cpi _ => false
  | .lxiSp _ | .inxSp | .dcxSp | .rnz | .popB | .cnz _ | .pushB | .rst0 | .rz => true
  | .ret | .cz _ | .call _ | .rst1 | .rnc | .popD | .cnc _ | .pushD | .rst2 => true
  | .rc | .cc _ | .rst3 | .rpo | .popH | .cpo _ | .pushH | .rst4 | .rpe => true
  | .cpe _ | .rst5 | .rp | .popPsw | .cp _ | .pushPsw | .rst6 | .rm | .sphl => true
  | .cm _ | .rst7 => true

/-- The control-transfer instructions, which may write `pc` (10_state.md R18, 44_control_flow.md). -/
def writesPc : Instr → Bool
  | .nop | .lxiB _ | .staxB | .inxB | .inrB | .dcrB | .mviB _ | .rlc | .undefinedOpcode _ => false
  | .dadB | .ldaxB | .dcxB | .inrC | .dcrC | .mviC _ | .rrc | .lxiD _ | .staxD => false
  | .inxD | .inrD | .dcrD | .mviD _ | .ral | .dadD | .ldaxD | .dcxD | .inrE => false
  | .dcrE | .mviE _ | .rar | .lxiH _ | .shld _ | .inxH | .inrH | .dcrH | .mviH _ => false
  | .daa | .dadH | .lhld _ | .dcxH | .inrL | .dcrL | .mviL _ | .cma | .lxiSp _ => false
  | .sta _ | .inxSp | .inrM | .dcrM | .mviM _ | .stc | .dadSp | .lda _ | .dcxSp => false
  | .inrA | .dcrA | .mviA _ | .cmc | .movBB | .movBC | .movBD | .movBE | .movBH => false
  | .movBL | .movBM | .movBA | .movCB | .movCC | .movCD | .movCE | .movCH | .movCL => false
  | .movCM | .movCA | .movDB | .movDC | .movDD | .movDE | .movDH | .movDL | .movDM => false
  | .movDA | .movEB | .movEC | .movED | .movEE | .movEH | .movEL | .movEM | .movEA => false
  | .movHB | .movHC | .movHD | .movHE | .movHH | .movHL | .movHM | .movHA | .movLB => false
  | .movLC | .movLD | .movLE | .movLH | .movLL | .movLM | .movLA | .movMB | .movMC => false
  | .movMD | .movME | .movMH | .movML | .hlt | .movMA | .movAB | .movAC | .movAD => false
  | .movAE | .movAH | .movAL | .movAM | .movAA | .addB | .addC | .addD | .addE => false
  | .addH | .addL | .addM | .addA | .adcB | .adcC | .adcD | .adcE | .adcH => false
  | .adcL | .adcM | .adcA | .subB | .subC | .subD | .subE | .subH | .subL => false
  | .subM | .subA | .sbbB | .sbbC | .sbbD | .sbbE | .sbbH | .sbbL | .sbbM => false
  | .sbbA | .anaB | .anaC | .anaD | .anaE | .anaH | .anaL | .anaM | .anaA => false
  | .xraB | .xraC | .xraD | .xraE | .xraH | .xraL | .xraM | .xraA | .oraB => false
  | .oraC | .oraD | .oraE | .oraH | .oraL | .oraM | .oraA | .cmpB | .cmpC => false
  | .cmpD | .cmpE | .cmpH | .cmpL | .cmpM | .cmpA | .popB | .pushB | .adi _ => false
  | .aci _ | .popD | .outPort _ | .pushD | .sui _ | .inPort _ | .sbi _ | .popH | .xthl => false
  | .pushH | .ani _ | .xchg | .xri _ | .popPsw | .di | .pushPsw | .ori _ | .sphl => false
  | .ei | .cpi _ => false
  | .rnz | .jnz _ | .jmp _ | .cnz _ | .rst0 | .rz | .ret | .jz _ | .cz _ => true
  | .call _ | .rst1 | .rnc | .jnc _ | .cnc _ | .rst2 | .rc | .jc _ | .cc _ => true
  | .rst3 | .rpo | .jpo _ | .cpo _ | .rst4 | .rpe | .pchl | .jpe _ | .cpe _ => true
  | .rst5 | .rp | .jp _ | .cp _ | .rst6 | .rm | .jm _ | .cm _ | .rst7 => true

/-- The addresses of the memory space an instruction stores to when it is executed in `s` (20_memory.md R58 and the rule of
each storing instruction). -/
def storesAt (s : State) : Instr → List Word
  | .nop | .lxiB _ | .inxB | .inrB | .dcrB | .mviB _ | .rlc | .undefinedOpcode _ | .dadB => []
  | .ldaxB | .dcxB | .inrC | .dcrC | .mviC _ | .rrc | .lxiD _ | .inxD | .inrD => []
  | .dcrD | .mviD _ | .ral | .dadD | .ldaxD | .dcxD | .inrE | .dcrE | .mviE _ => []
  | .rar | .lxiH _ | .inxH | .inrH | .dcrH | .mviH _ | .daa | .dadH | .lhld _ => []
  | .dcxH | .inrL | .dcrL | .mviL _ | .cma | .lxiSp _ | .inxSp | .stc | .dadSp => []
  | .lda _ | .dcxSp | .inrA | .dcrA | .mviA _ | .cmc | .movBB | .movBC | .movBD => []
  | .movBE | .movBH | .movBL | .movBM | .movBA | .movCB | .movCC | .movCD | .movCE => []
  | .movCH | .movCL | .movCM | .movCA | .movDB | .movDC | .movDD | .movDE | .movDH => []
  | .movDL | .movDM | .movDA | .movEB | .movEC | .movED | .movEE | .movEH | .movEL => []
  | .movEM | .movEA | .movHB | .movHC | .movHD | .movHE | .movHH | .movHL | .movHM => []
  | .movHA | .movLB | .movLC | .movLD | .movLE | .movLH | .movLL | .movLM | .movLA => []
  | .hlt | .movAB | .movAC | .movAD | .movAE | .movAH | .movAL | .movAM | .movAA => []
  | .addB | .addC | .addD | .addE | .addH | .addL | .addM | .addA | .adcB => []
  | .adcC | .adcD | .adcE | .adcH | .adcL | .adcM | .adcA | .subB | .subC => []
  | .subD | .subE | .subH | .subL | .subM | .subA | .sbbB | .sbbC | .sbbD => []
  | .sbbE | .sbbH | .sbbL | .sbbM | .sbbA | .anaB | .anaC | .anaD | .anaE => []
  | .anaH | .anaL | .anaM | .anaA | .xraB | .xraC | .xraD | .xraE | .xraH => []
  | .xraL | .xraM | .xraA | .oraB | .oraC | .oraD | .oraE | .oraH | .oraL => []
  | .oraM | .oraA | .cmpB | .cmpC | .cmpD | .cmpE | .cmpH | .cmpL | .cmpM => []
  | .cmpA | .rnz | .popB | .jnz _ | .jmp _ | .adi _ | .rz | .ret | .jz _ => []
  | .aci _ | .rnc | .popD | .jnc _ | .outPort _ | .sui _ | .rc | .jc _ | .inPort _ => []
  | .sbi _ | .rpo | .popH | .jpo _ | .ani _ | .rpe | .pchl | .jpe _ | .xchg => []
  | .xri _ | .rp | .popPsw | .jp _ | .di | .ori _ | .rm | .sphl | .jm _ => []
  | .ei | .cpi _ => []
  | .staxB => [s.get16 .bc]
  | .staxD => [s.get16 .de]
  | .shld a16 => [a16, a16 + 1]
  | .sta a16 => [a16]
  | .inrM | .dcrM | .mviM _ | .movMB | .movMC | .movMD | .movME | .movMH | .movML => [s.get16 .hl]
  | .movMA => [s.get16 .hl]
  | .cnz _ => (if s.cond .nz then [s.get16 .sp - 2, s.get16 .sp - 1] else [])
  | .pushB | .rst0 | .call _ | .rst1 | .pushD | .rst2 | .rst3 | .pushH | .rst4 => [s.get16 .sp - 2, s.get16 .sp - 1]
  | .rst5 | .pushPsw | .rst6 | .rst7 => [s.get16 .sp - 2, s.get16 .sp - 1]
  | .cz _ => (if s.cond .z then [s.get16 .sp - 2, s.get16 .sp - 1] else [])
  | .cnc _ => (if s.cond .nc then [s.get16 .sp - 2, s.get16 .sp - 1] else [])
  | .cc _ => (if s.cond .c then [s.get16 .sp - 2, s.get16 .sp - 1] else [])
  | .xthl => [s.get16 .sp, s.get16 .sp + 1]
  | .cpo _ => (if s.cond .po then [s.get16 .sp - 2, s.get16 .sp - 1] else [])
  | .cpe _ => (if s.cond .pe then [s.get16 .sp - 2, s.get16 .sp - 1] else [])
  | .cp _ => (if s.cond .p then [s.get16 .sp - 2, s.get16 .sp - 1] else [])
  | .cm _ => (if s.cond .m then [s.get16 .sp - 2, s.get16 .sp - 1] else [])

/-- The operand accesses an instruction makes when it is executed in `s`, as (address, space) pairs: reads and writes, those
of a conditional form when it is taken (the rule of each instruction, 20_memory.md R65). -/
def touches (s : State) : Instr → List (Word × Bool)
  | .nop | .lxiB _ | .inxB | .inrB | .dcrB | .mviB _ | .rlc | .undefinedOpcode _ | .dadB => []
  | .dcxB | .inrC | .dcrC | .mviC _ | .rrc | .lxiD _ | .inxD | .inrD | .dcrD => []
  | .mviD _ | .ral | .dadD | .dcxD | .inrE | .dcrE | .mviE _ | .rar | .lxiH _ => []
  | .inxH | .inrH | .dcrH | .mviH _ | .daa | .dadH | .dcxH | .inrL | .dcrL => []
  | .mviL _ | .cma | .lxiSp _ | .inxSp | .stc | .dadSp | .dcxSp | .inrA | .dcrA => []
  | .mviA _ | .cmc | .movBB | .movBC | .movBD | .movBE | .movBH | .movBL | .movBA => []
  | .movCB | .movCC | .movCD | .movCE | .movCH | .movCL | .movCA | .movDB | .movDC => []
  | .movDD | .movDE | .movDH | .movDL | .movDA | .movEB | .movEC | .movED | .movEE => []
  | .movEH | .movEL | .movEA | .movHB | .movHC | .movHD | .movHE | .movHH | .movHL => []
  | .movHA | .movLB | .movLC | .movLD | .movLE | .movLH | .movLL | .movLA | .hlt => []
  | .movAB | .movAC | .movAD | .movAE | .movAH | .movAL | .movAA | .addB | .addC => []
  | .addD | .addE | .addH | .addL | .addA | .adcB | .adcC | .adcD | .adcE => []
  | .adcH | .adcL | .adcA | .subB | .subC | .subD | .subE | .subH | .subL => []
  | .subA | .sbbB | .sbbC | .sbbD | .sbbE | .sbbH | .sbbL | .sbbA | .anaB => []
  | .anaC | .anaD | .anaE | .anaH | .anaL | .anaA | .xraB | .xraC | .xraD => []
  | .xraE | .xraH | .xraL | .xraA | .oraB | .oraC | .oraD | .oraE | .oraH => []
  | .oraL | .oraA | .cmpB | .cmpC | .cmpD | .cmpE | .cmpH | .cmpL | .cmpA => []
  | .jnz _ | .jmp _ | .adi _ | .jz _ | .aci _ | .jnc _ | .sui _ | .jc _ | .sbi _ => []
  | .jpo _ | .ani _ | .pchl | .jpe _ | .xchg | .xri _ | .jp _ | .di | .ori _ => []
  | .sphl | .jm _ | .ei | .cpi _ => []
  | .staxB | .ldaxB => [(s.get16 .bc, false)]
  | .staxD | .ldaxD => [(s.get16 .de, false)]
  | .shld a16 | .lhld a16 => [(a16, false), (a16 + 1, false)]
  | .sta a16 | .lda a16 => [(a16, false)]
  | .inrM | .dcrM | .mviM _ | .movBM | .movCM | .movDM | .movEM | .movHM | .movLM => [(s.get16 .hl, false)]
  | .movMB | .movMC | .movMD | .movME | .movMH | .movML | .movMA | .movAM | .addM => [(s.get16 .hl, false)]
  | .adcM | .subM | .sbbM | .anaM | .xraM | .oraM | .cmpM => [(s.get16 .hl, false)]
  | .rnz => (if s.cond .nz then [(s.get16 .sp, false), (s.get16 .sp + 1, false)] else [])
  | .popB | .ret | .popD | .popH | .xthl | .popPsw => [(s.get16 .sp, false), (s.get16 .sp + 1, false)]
  | .cnz _ => (if s.cond .nz then [(s.get16 .sp - 2, false), (s.get16 .sp - 1, false)] else [])
  | .pushB | .rst0 | .call _ | .rst1 | .pushD => [(s.get16 .sp - 2, false), (s.get16 .sp - 1, false)]
  | .rst2 | .rst3 | .pushH | .rst4 => [(s.get16 .sp - 2, false), (s.get16 .sp - 1, false)]
  | .rst5 | .pushPsw | .rst6 | .rst7 => [(s.get16 .sp - 2, false), (s.get16 .sp - 1, false)]
  | .rz => (if s.cond .z then [(s.get16 .sp, false), (s.get16 .sp + 1, false)] else [])
  | .cz _ => (if s.cond .z then [(s.get16 .sp - 2, false), (s.get16 .sp - 1, false)] else [])
  | .rnc => (if s.cond .nc then [(s.get16 .sp, false), (s.get16 .sp + 1, false)] else [])
  | .outPort d8 | .inPort d8 => [(portAddr d8, true)]
  | .cnc _ => (if s.cond .nc then [(s.get16 .sp - 2, false), (s.get16 .sp - 1, false)] else [])
  | .rc => (if s.cond .c then [(s.get16 .sp, false), (s.get16 .sp + 1, false)] else [])
  | .cc _ => (if s.cond .c then [(s.get16 .sp - 2, false), (s.get16 .sp - 1, false)] else [])
  | .rpo => (if s.cond .po then [(s.get16 .sp, false), (s.get16 .sp + 1, false)] else [])
  | .cpo _ => (if s.cond .po then [(s.get16 .sp - 2, false), (s.get16 .sp - 1, false)] else [])
  | .rpe => (if s.cond .pe then [(s.get16 .sp, false), (s.get16 .sp + 1, false)] else [])
  | .cpe _ => (if s.cond .pe then [(s.get16 .sp - 2, false), (s.get16 .sp - 1, false)] else [])
  | .rp => (if s.cond .p then [(s.get16 .sp, false), (s.get16 .sp + 1, false)] else [])
  | .cp _ => (if s.cond .p then [(s.get16 .sp - 2, false), (s.get16 .sp - 1, false)] else [])
  | .rm => (if s.cond .m then [(s.get16 .sp, false), (s.get16 .sp + 1, false)] else [])
  | .cm _ => (if s.cond .m then [(s.get16 .sp - 2, false), (s.get16 .sp - 1, false)] else [])

/-! ## Frames -/

/-- Every register half but those of `ds` reads as before. -/
def keeps8 (ds : List Reg8) (s t : State) : Prop := ∀ r, r ∉ ds → t.get8 r = s.get8 r

/-- Every flag but those of `fs` reads as before, and so do the constant bits of `F`. -/
def keepsFlags (fs : List Flag) (s t : State) : Prop :=
  (∀ x, x ∉ fs → t.flag x = s.flag x) ∧ t.getF &&& 0x2A = s.getF &&& 0x2A

/-- Nothing outside the register file has changed. -/
def onlyRegs (s t : State) : Prop := t = { s with regs := t.regs }

/-- Nothing outside the register file and the cards has changed. -/
def onlyRegsAndCards (s t : State) : Prop := t = { s with regs := t.regs, slots := t.slots }

/-- `SP` and `pc` are unchanged. -/
def keepsSpPc (s t : State) : Prop := t.get16 .sp = s.get16 .sp ∧ t.get16 .pc = s.get16 .pc

/-- The first card that answers `(a, io)` is an unlocked data card. -/
def ramSlots (a : Word) (io : Bool) : List (Option Slot) → Bool
  | [] => false
  | none :: rest => ramSlots a io rest
  | some sl :: rest =>
    if sl.answers a io then
      match sl.card with
      | .data c => !c.writeLocked
      | .serial _ => false
      | .other _ => false
    else ramSlots a io rest

/-- RAM answers address `a` of the memory space. -/
def State.ramAt (s : State) (a : Word) : Bool := ramSlots a false s.slots

/-- The bytes `bs` stand from `a` on in the memory space, in data cards. -/
def bytesAt (s : State) : Word → List Byte → Prop
  | _, [] => True
  | a, b :: rest => s.peek false a = some b ∧ bytesAt s (a + 1) rest

/-- Reading the memory space from `a` on, one byte after the other, gives the bytes `bs`, from whatever cards answer, and takes
`s` to `t` (30_encoding.md R80, 20_memory.md R48). -/
def readsBytes : List Byte → Word → State → State → Prop
  | [], _, s, t => t = s
  | b :: rest, a, s, t => ∃ u, memRead a s = .ok (b, u) ∧ readsBytes rest (a + 1) u t

/-! ## Configuration and contents of cards -/

/-- A card with everything a run can change set to one fixed value: what is left is its configuration. -/
def Card.config : Card → Card
  | .data c => .data { c with mem := [] }
  | .serial c => .serial (SerialCard.construct c.startAdr c.isIo [] [])
  | .other c => .other { c with irq := false, inst := ⟨0, 0, 0⟩, replies := [] }

/-- The configuration of the bus: which card is in which slot, with its `allow_conflict` bit. -/
def busConfig (s : State) : List (Option Slot) := mapCards Card.config s.slots

/-- A ROM card is left as it is; of every other card only the configuration is kept. -/
def Card.romView : Card → Card
  | .data c => if c.writeLocked then .data c else .data { c with mem := [] }
  | .serial c => (Card.serial c).config
  | .other c => (Card.other c).config

/-- The contents of every ROM card of the bus. -/
def romContents (s : State) : List (Option Slot) := mapCards Card.romView s.slots

/-! ## Endpoints that do not fail -/

/-- No endpoint call still to come fails. -/
def SerialCard.healthy (c : SerialCard) : Prop := RxReply.fail ∉ c.rx ∧ true ∉ c.txFail

/-- The card's endpoint, if it has one, does not fail. -/
def Card.healthy : Card → Prop
  | .data _ => True
  | .serial c => c.healthy
  | .other _ => True

/-- No serial card's endpoint fails (the assumption 50_acia_6850.md R238 allows). -/
def State.healthy (s : State) : Prop := ∀ sl, some sl ∈ s.slots → sl.card.healthy

/-! ## Results, in the words of the rules -/

/-- The bytes `bs` at the head of any list of bytes decode to `i`. -/
def decodesTo (bs : List Byte) (i : Instr) : Prop := ∀ rest, decode (bs ++ rest) = .ok (i, rest)

/-- Nothing but the cards has changed. -/
def onlyCards (s t : State) : Prop := t = { s with slots := t.slots }

/-- The flags Z, S and P are those of the byte `v` (10_state.md R16). -/
def zspOf (v : Byte) (t : State) : Prop :=
  t.flag .z = decide (v.toNat = 0) ∧ t.flag .s = decide (128 ≤ v.toNat) ∧ t.flag .p = decide (popCount v % 2 = 0)

/-- From `s` to `t` at most `A` and flags have changed. -/
def onlyAccAndFlags (s t : State) : Prop :=
  keeps8 [.a] s t ∧ keepsSpPc s t ∧ t.getF &&& 0x2A = s.getF &&& 0x2A ∧ onlyRegs s t

/-- `AluAdd(v, cin)` took `s` to `t` (42_alu.md R141). -/
def added (v : Byte) (cin : Nat) (s t : State) : Prop :=
  t.acc = s.acc + v + BitVec.ofNat 8 cin ∧
  t.flag .c = decide (0xFF < s.acc.toNat + v.toNat + cin) ∧
  t.flag .ac = decide (0x0F < s.acc.toNat % 16 + v.toNat % 16 + cin) ∧
  zspOf t.acc t ∧ onlyAccAndFlags s t

/-- `AluSub(v, bin, keep)` took `s` to `t` (42_alu.md R142). -/
def subtracted (v : Byte) (bin : Nat) (keep : Bool) (s t : State) : Prop :=
  t.acc = (if keep then s.acc - v - BitVec.ofNat 8 bin else s.acc) ∧
  t.flag .c = decide (s.acc.toNat < v.toNat + bin) ∧
  t.flag .ac = decide (v.toNat % 16 ≤ s.acc.toNat % 16) ∧
  zspOf (s.acc - v - BitVec.ofNat 8 bin) t ∧ onlyAccAndFlags s t

/-- A logic core took `s` to `t` with result `r` and auxiliary carry `ac` (42_alu.md R143). -/
def logicResult (r : Byte) (ac : Bool) (s t : State) : Prop :=
  t.acc = r ∧ t.flag .c = false ∧ t.flag .ac = ac ∧ zspOf r t ∧ onlyAccAndFlags s t

/-- A rotate took `s` to `t`: `A` is `r`, `C` is `c`, nothing else has changed (43_rotate_daa_misc.md R170 to R173). -/
def rotated (r : Nat) (c : Bool) (s t : State) : Prop :=
  t.acc.toNat = r ∧ t.flag .c = c ∧ keeps8 [.a] s t ∧ keepsFlags [.c] s t ∧ keepsSpPc s t ∧ onlyRegs s t

/-- The flag effect of `INR` and `DCR` with result `r` and auxiliary carry `ac`: `C` is kept (41_inc_dec_dad.md R130 to
R133). -/
def countedFlags (r : Byte) (ac : Bool) (s t : State) : Prop :=
  zspOf r t ∧ t.flag .ac = ac ∧ t.flag .c = s.flag .c ∧ t.getF &&& 0x2A = s.getF &&& 0x2A

/-- The number a byte of two decimal digits stands for. -/
def bcdValue (v : Byte) : Nat := v.toNat / 16 * 10 + v.toNat % 16

/-- Both digits of the byte are decimal. -/
def isBcd (v : Byte) : Prop := v.toNat / 16 ≤ 9 ∧ v.toNat % 16 ≤ 9

/-! ## Accesses -/

/-- What a write of `v` to `(a, io)` makes of one slot: a card that answers is written, any other slot stays (20_memory.md
R49; with `force`, R50). -/
inductive WroteSlot (force : Bool) (a : Word) (v : Byte) (io : Bool) : Option Slot → Option Slot → Prop
  | empty : WroteSlot force a v io none none
  | other (sl : Slot) : sl.answers a io = false → WroteSlot force a v io (some sl) (some sl)
  | wrote (sl : Slot) (c1 : Card) : sl.answers a io = true → sl.card.write force a v = .ok c1 →
      WroteSlot force a v io (some sl) (some { sl with card := c1 })

/-- An access to `(a, io)` begun in `s` is the fault `EndpointIoError` in `u`: it reaches a serial card whose endpoint fails
(60_exceptions.md R265). -/
def failsAt (a : Word) (io : Bool) (s u : State) : Prop :=
  (busRead a io s = .error (.endpointIoError u) ∨ ∃ v, busWrite a v io s = .error (.endpointIoError u)) ∧
    ∃ sl c, some sl ∈ s.slots ∧ sl.answers a io = true ∧ sl.card = .serial c ∧ ¬ c.healthy

/-- What an instruction abandoned at an operand access has changed (60_exceptions.md R265): the cards its accesses reached,
`SP` if it has begun to push, `AC` if it is `INR M` or `DCR M` (41_inc_dec_dad.md R131, R133), bytes it stores to; no other
register, flag, byte or control state. That `L` is among the registers kept when the second read of `LHLD` faults is the
model's choice (log 16). -/
def abandoned (i : Instr) (s u : State) : Prop :=
  onlyRegsAndCards s u ∧ keeps8 [] s u ∧ keepsFlags (if i = .inrM ∨ i = .dcrM then [.ac] else []) s u ∧
  u.get16 .pc = s.get16 .pc ∧
  u.get16 .sp = (if writesSp i = true ∧ storesAt s i ≠ [] then s.get16 .sp - 2 else s.get16 .sp) ∧
  busConfig u = busConfig s ∧ romContents u = romContents s ∧
  (∀ a, a ∉ storesAt s i → u.peek false a = s.peek false a) ∧
  (∀ a, (∀ p, i = .outPort p → a ≠ portAddr p) → u.peek true a = s.peek true a)

/-! ## Configurations of the bus -/

/-- Two slots that may not overlap do not (20_memory.md R44). -/
def State.slotsDisjoint (s : State) : Prop :=
  ∀ (i j : Nat) (x y : Slot), i ≠ j → s.slots[i]? = some (some x) → s.slots[j]? = some (some y) → x.allowConflict = false →
    y.allowConflict = false → x.card.overlaps y.card = false

/-- A data card, locked or not, is the first to answer address `a` of the memory space. -/
def State.dataAt (s : State) (a : Word) : Prop :=
  ∃ pre sl post, s.slots = pre ++ some sl :: post ∧ (∀ x, some x ∈ pre → x.answers a false = false) ∧
    sl.answers a false = true ∧ ∃ c, sl.card = .data c

/-- No card answers `(a, io)`. -/
def State.unmapped (s : State) (io : Bool) (a : Word) : Prop := ∀ sl, some sl ∈ s.slots → sl.answers a io = false

/-! ## The serial card -/

/-- The poll of the next access fails: the endpoint is asked, which it is only while `RDRF` is 0, and fails
(50_acia_6850.md R226, R238). -/
def SerialCard.pollFails (c : SerialCard) : Prop := c.status &&& 1 = 0 ∧ c.rx.head? = some .fail

/-- The next `putch` or `send_break` fails (50_acia_6850.md R238). -/
def SerialCard.putFails (c : SerialCard) : Prop := c.txFail.head? = some true

/-- The card after a poll whose endpoint does not fail (50_acia_6850.md R226). -/
def SerialCard.afterPoll (c : SerialCard) : SerialCard :=
  if c.status &&& 1 = 1 then c
  else
    match c.rx with
    | .byte b :: rest => { c with rx := rest, rxData := b, status := c.status ||| 0x01 }
    | .idle :: rest => { c with rx := rest }
    | .fail :: _ => c
    | [] => c

/-- What the clock-divide field `v[1:0]` and the word-select field `v[4:2]` of a control write, and its poll, leave in `t`
(50_acia_6850.md R226, R229 to R231). -/
def SerialCard.fieldsSet (c : SerialCard) (v : Byte) (t : SerialCard) : Prop :=
  (v &&& 0x1C = 0x00 → t.format = ⟨.seven, .even, .two⟩) ∧ (v &&& 0x1C = 0x04 → t.format = ⟨.seven, .odd, .two⟩) ∧
  (v &&& 0x1C = 0x08 → t.format = ⟨.seven, .even, .one⟩) ∧ (v &&& 0x1C = 0x0C → t.format = ⟨.seven, .odd, .one⟩) ∧
  (v &&& 0x1C = 0x10 → t.format = ⟨.eight, .none, .two⟩) ∧ (v &&& 0x1C = 0x14 → t.format = ⟨.eight, .none, .one⟩) ∧
  (v &&& 0x1C = 0x18 → t.format = ⟨.eight, .even, .one⟩) ∧ (v &&& 0x1C = 0x1C → t.format = ⟨.eight, .odd, .one⟩) ∧
  t.rx = c.afterPoll.rx ∧ t.startAdr = c.startAdr ∧ t.isIo = c.isIo ∧
  (v &&& 0x03 = 0x03 → t.divisor = .div16 ∧ t.rxData = 0x00 ∧ t.txData = 0x00) ∧
  (v &&& 0x03 ≠ 0x03 → t.rxData = c.afterPoll.rxData ∧ t.txData = c.txData ∧
    t.divisor = if v &&& 0x03 = 0x00 then .div1 else if v &&& 0x03 = 0x01 then .div16 else .div64)

/-! ## Runs -/

/-- The next step fetches its instruction from memory at `pc`: the CPU is not halted, no operand buffer is filled, no
interrupt is accepted and the shim does nothing (30_encoding.md R82, 60_exceptions.md R273, R285). -/
def State.plainFetch (s : State) : Prop :=
  s.halted = false ∧ s.irqQueue = [] ∧ boundaryCheck s = .go s ∧
    (s.params.pseudoBdos = false ∨ (s.get16 .pc ≠ 0x0000 ∧ s.get16 .pc ≠ 0x0005))

/-- The next step is an acceptance (60_exceptions.md R273, R274). -/
def State.accepts (s : State) : Prop := ∃ inst u, boundaryCheck s = .accept inst u

/-- `k` steps from `s`, each an acceptance that answers a next state, end in `t`. -/
def acceptancesTo : Nat → State → State → Prop
  | 0, s, t => t = s
  | k + 1, s, t => s.accepts ∧ ∃ u, step s = .next u ∧ acceptancesTo k u t

/-! ## The invariant -/

/-- `F` holds its constant bits: bit 1 is 1, bits 3 and 5 are 0 (10_state.md R14). -/
def State.flagsMasked (s : State) : Prop := s.getF &&& 0x2A = 0x02

/-- Bits 1 to 6 of `STATUS` are as the bus can see them: `TDRE` is 1, the named bits without behaviour are 0
(50_acia_6850.md R224, R236). -/
def SerialCard.statusLegal (c : SerialCard) : Prop := c.status &&& 0x7E = 0x02

/-- The card's memory is in the canonical form and a serial card's status is legal. -/
def Card.legal : Card → Prop
  | .data c => c.wf
  | .serial c => c.statusLegal
  | .other _ => True

/-- What every reachable state between two steps has: `F` masked (10_state.md R14), 18 slots (R22), legal cards, no interrupt
operand buffer (R21). -/
structure State.Inv (s : State) : Prop where
  masked : s.flagsMasked
  slotCount : s.slots.length = nSlots
  cards : ∀ sl, some sl ∈ s.slots → sl.card.legal
  noBuffer : s.irqQueue = []

end Sys2Proof.Machine
end

