-- ==== Sys2Proof/Certificates/Slice0/Obligations.lean ====
section
/-! DEFINITION. The statements for the provers. An instruction family is named by its builder (`Fam`), over every selector
value, so a statement about a builder is one about each of its constructors. -/

open Sys2Proof Sys2Proof.Machine

/-! ## Reset and the invariant -/

/-- `cpu.clear()` (70_reset_and_hazards.md R300): every register and control bit it loads, all it leaves alone; creating a
CPU, and `State.reset`, give the same values. `bus.clear()` (R301): every kind of card; an `Other` card reacts as its script
says, which is the model's form of its parameter (log 7). `State.reset` with the default parameters is log 2's. -/
def Obligations.CpuAndBusReset : Prop :=
  (∀ s : State, let t := cpuClear s
    t.get8 .a = 0x00 ∧ t.getF = 0x02 ∧ t.get16 .af = 0x0002 ∧ t.get16 .bc = 0x0000 ∧ t.get16 .de = 0x0000 ∧
    t.get16 .hl = 0x0000 ∧ t.get16 .sp = 0x0000 ∧ t.get16 .pc = s.params.startPc ∧ t.halted = false ∧
    t.interruptsEnabled = false ∧ t.justBooted = true ∧ t.irqQueue = [] ∧
    t.slots = s.slots ∧ t.sink = s.sink ∧ t.params = s.params) ∧
  (∀ p : Params, powerOn p = cpuClear (powerOn p) ∧ (powerOn p).params = p) ∧
  State.reset = powerOn {} ∧ State.reset.get16 .pc = 0x0000 ∧
  ∀ s : State, let t := busClear s
    onlyCards s t ∧ t.slots.length = s.slots.length ∧ ∀ n : Nat,
      (s.slots[n]? = some none → t.slots[n]? = some none) ∧
      ∀ (card : Card) (al : Bool), s.slots[n]? = some (some ⟨card, al⟩) →
        ∃ card1, t.slots[n]? = some (some ⟨card1, al⟩) ∧
          (∀ c, card = .data c → (c.writeLocked = true → card1 = .data c) ∧
            (c.writeLocked = false → ∃ d, card1 = .data d ∧ d = { c with mem := d.mem } ∧
              ∀ a, (Card.data c).inRange a = true → d.read a = 0x00)) ∧
          (∀ c, card = .serial c → card1 = .serial { c with
            control := 0x95, status := 0x02, rts := 1, divisor := .div16, format := ⟨.eight, .none, .one⟩,
            txData := 0x00, rxData := 0x00 }) ∧
          (∀ c, card = .other c → card1 = .other c.react)

/-- The reset state has the invariant. -/
def Obligations.ResetMeetsInvariant : Prop := State.reset.Inv

/-- Every step that answers a next state keeps the invariant: `F` masked (10_state.md R14), 18 slots (R22), canonical
memory, `TDRE` always 1 and the five dead status bits 0 (50_acia_6850.md R224, R236), no operand buffer between steps
(10_state.md R21). -/
def Obligations.StepKeepsInvariant : Prop := ∀ s t : State, s.Inv → step s = .next t → t.Inv

/-- No step changes the configuration: which card is in which slot, its address range, space, lock and `allow_conflict`
(10_state.md R22), the parameters (00_scope.md R5), and the bytes of every ROM card (20_memory.md R46, R60). -/
def Obligations.StepKeepsConfigurationAndRom : Prop :=
  ∀ s t : State, step s = .next t → busConfig t = busConfig s ∧ romContents t = romContents s ∧ t.params = s.params

/-! ## Encoding -/

/-- Decoding the encoding of a well-formed instruction gives it back, and the bytes after it. -/
def Obligations.DecodeEncode : Prop :=
  ∀ (i : Instr) (rest : List Byte), i.wf = true → decode (encode i ++ rest) = .ok (i, rest)

/-- Whatever decodes is well-formed and was its own encoding. -/
def Obligations.EncodeDecode : Prop :=
  ∀ (bs rest : List Byte) (i : Instr), decode bs = .ok (i, rest) → i.wf = true ∧ encode i ++ rest = bs

/-- The ten bytes the source shows (30_encoding.md R91) decode to the instructions it names. -/
def Obligations.SourceBytesDecode : Prop :=
  decodesTo [0x3E, 0x42] (.mviA 0x42) ∧ decodesTo [0x06, 0x18] (.mviB 0x18) ∧ decodesTo [0x80] .addB ∧
  decodesTo [0x76] .hlt ∧ decodesTo [0x3C] .inrA ∧ decodesTo [0xC6, 0x01] (.adi 0x01) ∧
  decodesTo [0xD6, 0x01] (.sui 0x01) ∧ decodesTo [0xE3] .xthl ∧ decodesTo [0x0F] .rrc ∧
  ∀ offset : Word, decodesTo [0xC3, lo8 offset, hi8 offset] (.jmp offset)

/-! ## Step -/

/-- When the bytes at `pc` decode to an instruction, a step is that instruction executed with `pc` past its bytes
(30_encoding.md R80 to R83, 10_state.md R18). Fetch and execute alone (`runInstr`), which such a step is, says the same of bytes
that any card gives; and where the next byte an instruction needs is read from a serial card whose endpoint fails, it is the
fault `EndpointIoError` with `pc` past the bytes fetched before and none of the instruction's effect (60_exceptions.md R265,
R266). -/
def Obligations.StepRunsDecodedInstruction : Prop :=
  (∀ (s : State) (bs : List Byte) (i : Instr), s.plainFetch → bytesAt s (s.get16 .pc) bs → decode bs = .ok (i, []) →
    step s = exec i (s.set16 .pc (s.get16 .pc + BitVec.ofNat 16 bs.length))) ∧
  (∀ s : State, s.plainFetch → step s = runInstr s) ∧
  ∀ (s t : State) (bs : List Byte), s.irqQueue = [] → readsBytes bs (s.get16 .pc) s t →
    let next := s.get16 .pc + BitVec.ofNat 16 bs.length
    (∀ i, decode bs = .ok (i, []) → runInstr s = exec i (t.set16 .pc next)) ∧
    ∀ e u, decode bs = .error e → memRead next t = .error (.endpointIoError u) →
      runInstr s = .fault (.endpointIoError (u.set16 .pc next))

/-- The twelve undefined bytes fault, from memory with `pc` past the byte and nothing else changed, and from a card's
interrupt instruction with interrupts already disabled and `pc` already pushed (60_exceptions.md R261). -/
def Obligations.UndefinedOpcodesFault : Prop :=
  ∀ op ∈ undefinedOpcodes,
    decodesTo [op] (.undefinedOpcode op) ∧
    (∀ s : State, exec (.undefinedOpcode op) s = .fault (.unknownOpcode op s)) ∧
    (∀ s : State, s.plainFetch → s.peek false (s.get16 .pc) = some op →
      step s = .fault (.unknownOpcode op (s.set16 .pc (s.get16 .pc + 1)))) ∧
    (∀ (s u : State) (b1 b2 : Byte), enterInterrupt ⟨op, b1, b2⟩ s = .ok ((), u) →
      acceptInterrupt ⟨op, b1, b2⟩ s = .fault (.unknownOpcode op u) ∧ u.interruptsEnabled = false ∧
      u.halted = (s.halted && !s.params.irqWakesHalt) ∧ keeps8 [] s u ∧ u.getF = s.getF ∧ u.get16 .pc = s.get16 .pc ∧
      (s.params.irqAcceptPushesPc = false → u.get16 .sp = s.get16 .sp ∧ u.slots = s.slots) ∧
      (s.params.irqAcceptPushesPc = true → u.get16 .sp = s.get16 .sp - 2 ∧ (s.healthy →
        (s.ramAt (s.get16 .sp - 2) = true → u.peek false (s.get16 .sp - 2) = some (lo8 (s.get16 .pc))) ∧
        (s.ramAt (s.get16 .sp - 1) = true → u.peek false (s.get16 .sp - 1) = some (hi8 (s.get16 .pc))))))

/-! ## Register file and flags -/

/-- The pairs and their halves (10_state.md R11). -/
def Obligations.PairsAndHalves : Prop :=
  ∀ s : State,
    s.get16 .af = pair (s.get8 .a) s.getF ∧
    (∀ h l, ((s.set8 .b h).set8 .c l).get16 .bc = pair h l ∧ ((s.set8 .c l).set8 .b h).get16 .bc = pair h l) ∧
    (∀ h l, ((s.set8 .d h).set8 .e l).get16 .de = pair h l ∧ ((s.set8 .e l).set8 .d h).get16 .de = pair h l) ∧
    (∀ h l, ((s.set8 .h h).set8 .l l).get16 .hl = pair h l ∧ ((s.set8 .l l).set8 .h h).get16 .hl = pair h l) ∧
    (∀ v, (s.set16 .bc v).get8 .b = hi8 v ∧ (s.set16 .bc v).get8 .c = lo8 v) ∧
    (∀ v, (s.set16 .de v).get8 .d = hi8 v ∧ (s.set16 .de v).get8 .e = lo8 v) ∧
    (∀ v, (s.set16 .hl v).get8 .h = hi8 v ∧ (s.set16 .hl v).get8 .l = lo8 v) ∧
    (∀ v, (s.set16 .af v).get8 .a = hi8 v) ∧
    (∀ r v, (s.set8 r v).get8 r = v ∧ (s.set8 r v).getF = s.getF ∧ ∀ r', r' ≠ r → (s.set8 r v).get8 r' = s.get8 r') ∧
    (∀ v, (s.setF v).get8 .a = s.get8 .a)

/-- The flag byte: the bit of each flag and the constant bits (10_state.md R13), its mask (R14), one flag at a time (R15), and
`SetZSP` (R16). -/
def Obligations.FlagByte : Prop :=
  ∀ s : State,
    (s.flag .c = s.getF.getLsbD 0 ∧ s.flag .p = s.getF.getLsbD 2 ∧ s.flag .ac = s.getF.getLsbD 4 ∧
      s.flag .z = s.getF.getLsbD 6 ∧ s.flag .s = s.getF.getLsbD 7) ∧
    (s.flagsMasked → s.getF.getLsbD 1 = true ∧ s.getF.getLsbD 3 = false ∧ s.getF.getLsbD 5 = false) ∧
    (∀ v, (s.setF v).getF = (v &&& 0xD7) ||| 0x02 ∧ (s.setF v).flagsMasked) ∧
    (∀ v, (s.set16 .af v).getF = (lo8 v &&& 0xD7) ||| 0x02 ∧ (s.set16 .af v).flagsMasked) ∧
    (∀ x b, (s.setFlag x b).flag x = b ∧ (∀ y, y ≠ x → (s.setFlag x b).flag y = s.flag y) ∧
      (s.setFlag x b).getF &&& 0x2A = s.getF &&& 0x2A ∧ ∀ r, (s.setFlag x b).get8 r = s.get8 r) ∧
    (∀ v, zspOf v (s.setZsp v) ∧ (s.setZsp v).flag .c = s.flag .c ∧ (s.setZsp v).flag .ac = s.flag .ac)

/-! ## Data moves (40_data_moves.md) -/

/-- `MOV r1,r2` (R110), every pair of registers. -/
def Obligations.MoveRegister : Prop :=
  ∀ dst src : Reg8, decodesTo [0b01#2 ++ dst.code ++ src.code] (Fam.movRR dst src) ∧
    (∀ s : State, exec (Fam.movRR dst src) s = .next (s.set8 dst (s.get8 src))) ∧
    (dst = src → ∀ s : State, exec (Fam.movRR dst src) s = .next s)

/-- `MOV r,M` (R111): the byte at the old `HL`; only the cards a read reaches and `r` change. -/
def Obligations.LoadFromM : Prop :=
  ∀ dst : Reg8, decodesTo [0b01#2 ++ dst.code ++ 0b110#3] (Fam.movRM dst) ∧
    ∀ s : State, s.healthy → ∃ v s1, memRead (s.get16 .hl) s = .ok (v, s1) ∧ onlyCards s s1 ∧
      exec (Fam.movRM dst) s = .next (s1.set8 dst v)

/-- `MOV M,r` (R112): `r` stored at `HL`; only cards change. -/
def Obligations.StoreToM : Prop :=
  ∀ src : Reg8, decodesTo [0b01110#5 ++ src.code] (Fam.movMR src) ∧
    ∀ s : State, s.healthy → ∃ t, memWrite (s.get16 .hl) (s.get8 src) s = .ok ((), t) ∧ onlyCards s t ∧
      exec (Fam.movMR src) s = .next t

/-- `MVI r,d8` (R113) and `MVI M,d8` (R114). -/
def Obligations.MoveImmediate : Prop :=
  ∀ d8 : Byte,
    (∀ r : Reg8, decodesTo [0b00#2 ++ r.code ++ 0b110#3, d8] (Fam.mvi d8 (.reg r)) ∧
      ∀ s : State, exec (Fam.mvi d8 (.reg r)) s = .next (s.set8 r d8)) ∧
    decodesTo [0x36, d8] (.mviM d8) ∧
    ∀ s : State, s.healthy → ∃ t, memWrite (s.get16 .hl) d8 s = .ok ((), t) ∧ onlyCards s t ∧
      exec (.mviM d8) s = .next t

/-- `LXI rp,d16` (R115), every pair, little-endian operand. -/
def Obligations.LoadPairImmediate : Prop :=
  ∀ (rp : RegPair) (d16 : Word), decodesTo [0b00#2 ++ rp.code ++ 0b0001#4, lo8 d16, hi8 d16] (Fam.lxi d16 rp) ∧
    ∀ s : State, exec (Fam.lxi d16 rp) s = .next (s.set16 (regPairCell rp) d16)

/-- `LDA` (R116), `LDAX` (R118), `LHLD` (R120): what is loaded, low byte first. -/
def Obligations.LoadDirectAndIndexed : Prop :=
  (∀ a : Word, decodesTo [0x3A, lo8 a, hi8 a] (.lda a) ∧
    ∀ s : State, s.healthy → ∃ v s1, memRead a s = .ok (v, s1) ∧ onlyCards s s1 ∧
      exec (.lda a) s = .next (s1.set8 .a v)) ∧
  (∀ p : IndexPair, decodesTo [0b000#3 ++ p.code ++ 0b1010#4] (Fam.ldax p) ∧
    ∀ s : State, s.healthy → ∃ v s1, memRead (s.get16 (indexCell p)) s = .ok (v, s1) ∧ onlyCards s s1 ∧
      exec (Fam.ldax p) s = .next (s1.set8 .a v)) ∧
  (∀ a : Word, decodesTo [0x2A, lo8 a, hi8 a] (.lhld a) ∧
    ∀ s : State, s.healthy → ∃ l s1 h s2, memRead a s = .ok (l, s1) ∧ memRead (a + 1) s1 = .ok (h, s2) ∧
      onlyCards s s2 ∧ exec (.lhld a) s = .next ((s2.set8 .l l).set8 .h h))

/-- `STA` (R117), `STAX` (R119), `SHLD` (R121): what is stored, low byte first; only cards change. -/
def Obligations.StoreDirectAndIndexed : Prop :=
  (∀ a : Word, decodesTo [0x32, lo8 a, hi8 a] (.sta a) ∧
    ∀ s : State, s.healthy → ∃ t, memWrite a (s.get8 .a) s = .ok ((), t) ∧ onlyCards s t ∧ exec (.sta a) s = .next t) ∧
  (∀ p : IndexPair, decodesTo [0b000#3 ++ p.code ++ 0b0010#4] (Fam.stax p) ∧
    ∀ s : State, s.healthy → ∃ t, memWrite (s.get16 (indexCell p)) (s.get8 .a) s = .ok ((), t) ∧ onlyCards s t ∧
      exec (Fam.stax p) s = .next t) ∧
  (∀ a : Word, decodesTo [0x22, lo8 a, hi8 a] (.shld a) ∧
    ∀ s : State, s.healthy → ∃ s1 t, memWrite a (s.get8 .l) s = .ok ((), s1) ∧
      memWrite (a + 1) (s.get8 .h) s1 = .ok ((), t) ∧ onlyCards s t ∧ exec (.shld a) s = .next t)

/-- `XCHG` (R122), which undoes itself, and `SPHL` (R123). -/
def Obligations.ExchangeAndSphl : Prop :=
  decodesTo [0xEB] .xchg ∧ decodesTo [0xF9] .sphl ∧
  ∀ s : State,
    (∃ t, exec .xchg s = .next t ∧ t.get16 .hl = s.get16 .de ∧ t.get16 .de = s.get16 .hl ∧
      keeps8 [.d, .e, .h, .l] s t ∧ t.getF = s.getF ∧ keepsSpPc s t ∧ onlyRegs s t ∧ exec .xchg t = .next s) ∧
    exec .sphl s = .next (s.set16 .sp (s.get16 .hl))

/-! ## Increment, decrement, 16-bit add (41_inc_dec_dad.md) -/

/-- `INR r` (R130) and `INR M` (R131): result, flags, and what stays; `INR M` is one read, then one write. -/
def Obligations.Increment : Prop :=
  (∀ r : Reg8, decodesTo [0b00#2 ++ r.code ++ 0b100#3] (Fam.inr (.reg r)) ∧
    ∀ s : State, ∃ t, exec (Fam.inr (.reg r)) s = .next t ∧ t.get8 r = s.get8 r + 1 ∧
      countedFlags (s.get8 r + 1) (decide ((s.get8 r).toNat % 16 = 15)) s t ∧
      keeps8 [r] s t ∧ keepsSpPc s t ∧ onlyRegs s t) ∧
  decodesTo [0x34] .inrM ∧
  ∀ s : State, s.healthy → ∃ v s1 s2 t, memRead (s.get16 .hl) s = .ok (v, s1) ∧
    memWrite (s.get16 .hl) (v + 1) s1 = .ok ((), s2) ∧ exec .inrM s = .next t ∧ t.slots = s2.slots ∧
    countedFlags (v + 1) (decide (v.toNat % 16 = 15)) s t ∧ keeps8 [] s t ∧ keepsSpPc s t ∧ onlyRegsAndCards s t

/-- `DCR r` (R132) and `DCR M` (R133): result, flags, and what stays; `DCR M` is one read, then one write. -/
def Obligations.Decrement : Prop :=
  (∀ r : Reg8, decodesTo [0b00#2 ++ r.code ++ 0b101#3] (Fam.dcr (.reg r)) ∧
    ∀ s : State, ∃ t, exec (Fam.dcr (.reg r)) s = .next t ∧ t.get8 r = s.get8 r - 1 ∧
      countedFlags (s.get8 r - 1) (decide ((s.get8 r).toNat % 16 = 0)) s t ∧
      keeps8 [r] s t ∧ keepsSpPc s t ∧ onlyRegs s t) ∧
  decodesTo [0x35] .dcrM ∧
  ∀ s : State, s.healthy → ∃ v s1 s2 t, memRead (s.get16 .hl) s = .ok (v, s1) ∧
    memWrite (s.get16 .hl) (v - 1) s1 = .ok ((), s2) ∧ exec .dcrM s = .next t ∧ t.slots = s2.slots ∧
    countedFlags (v - 1) (decide (v.toNat % 16 = 0)) s t ∧ keeps8 [] s t ∧ keepsSpPc s t ∧ onlyRegsAndCards s t

/-- `INX rp` (R134) and `DCX rp` (R135): modulo 2^16, no flag. -/
def Obligations.IncrementDecrementPair : Prop :=
  ∀ rp : RegPair,
    decodesTo [0b00#2 ++ rp.code ++ 0b0011#4] (Fam.inx rp) ∧ decodesTo [0b00#2 ++ rp.code ++ 0b1011#4] (Fam.dcx rp) ∧
    ∀ s : State, exec (Fam.inx rp) s = .next (s.set16 (regPairCell rp) (s.get16 (regPairCell rp) + 1)) ∧
      exec (Fam.dcx rp) s = .next (s.set16 (regPairCell rp) (s.get16 (regPairCell rp) - 1))

/-- `DAD rp` (R136): the sum modulo 2^16, `C` either way, no other flag. -/
def Obligations.DoubleAdd : Prop :=
  ∀ rp : RegPair, decodesTo [0b00#2 ++ rp.code ++ 0b1001#4] (Fam.dad rp) ∧
    ∀ s : State, ∃ t, exec (Fam.dad rp) s = .next t ∧ t.get16 .hl = s.get16 .hl + s.get16 (regPairCell rp) ∧
      t.flag .c = decide (0xFFFF < (s.get16 .hl).toNat + (s.get16 (regPairCell rp)).toNat) ∧
      keepsFlags [.c] s t ∧ keeps8 [.h, .l] s t ∧ keepsSpPc s t ∧ onlyRegs s t

/-! ## ALU (42_alu.md) -/

/-- `ADD` (R144), `ADC` (R145), `ADI` (R152), `ACI` (R153) over the add core (R141), every operand form. -/
def Obligations.AddGroup : Prop :=
  (∀ r : Reg8, decodesTo [0b10#2 ++ AluOp.add.code ++ r.code] (Fam.alu .add (.reg r)) ∧
    decodesTo [0b10#2 ++ AluOp.adc.code ++ r.code] (Fam.alu .adc (.reg r)) ∧
    ∀ s : State, ∃ t u, exec (Fam.alu .add (.reg r)) s = .next t ∧ added (s.get8 r) 0 s t ∧
      exec (Fam.alu .adc (.reg r)) s = .next u ∧ added (s.get8 r) (s.flag .c).toNat s u) ∧
  (decodesTo [0x86] .addM ∧ decodesTo [0x8E] .adcM ∧
    ∀ s : State, s.healthy → ∃ v s1 t u, memRead (s.get16 .hl) s = .ok (v, s1) ∧ onlyCards s s1 ∧
      exec .addM s = .next t ∧ added v 0 s1 t ∧ exec .adcM s = .next u ∧ added v (s.flag .c).toNat s1 u) ∧
  ∀ d8 : Byte, decodesTo [0xC6, d8] (.adi d8) ∧ decodesTo [0xCE, d8] (.aci d8) ∧
    ∀ s : State, ∃ t u, exec (.adi d8) s = .next t ∧ added d8 0 s t ∧
      exec (.aci d8) s = .next u ∧ added d8 (s.flag .c).toNat s u

/-- `SUB` (R146), `SBB` (R147), `CMP` (R151), `SUI` (R154), `SBI` (R155), `CPI` (R159) over the subtract core (R142), every
operand form. -/
def Obligations.SubtractGroup : Prop :=
  (∀ r : Reg8, decodesTo [0b10#2 ++ AluOp.sub.code ++ r.code] (Fam.alu .sub (.reg r)) ∧
    decodesTo [0b10#2 ++ AluOp.sbb.code ++ r.code] (Fam.alu .sbb (.reg r)) ∧
    decodesTo [0b10#2 ++ AluOp.cmp.code ++ r.code] (Fam.alu .cmp (.reg r)) ∧
    ∀ s : State, ∃ t u w, exec (Fam.alu .sub (.reg r)) s = .next t ∧ subtracted (s.get8 r) 0 true s t ∧
      exec (Fam.alu .sbb (.reg r)) s = .next u ∧ subtracted (s.get8 r) (s.flag .c).toNat true s u ∧
      exec (Fam.alu .cmp (.reg r)) s = .next w ∧ subtracted (s.get8 r) 0 false s w) ∧
  (decodesTo [0x96] .subM ∧ decodesTo [0x9E] .sbbM ∧ decodesTo [0xBE] .cmpM ∧
    ∀ s : State, s.healthy → ∃ v s1 t u w, memRead (s.get16 .hl) s = .ok (v, s1) ∧ onlyCards s s1 ∧
      exec .subM s = .next t ∧ subtracted v 0 true s1 t ∧
      exec .sbbM s = .next u ∧ subtracted v (s.flag .c).toNat true s1 u ∧
      exec .cmpM s = .next w ∧ subtracted v 0 false s1 w) ∧
  ∀ d8 : Byte, decodesTo [0xD6, d8] (.sui d8) ∧ decodesTo [0xDE, d8] (.sbi d8) ∧ decodesTo [0xFE, d8] (.cpi d8) ∧
    ∀ s : State, ∃ t u w, exec (.sui d8) s = .next t ∧ subtracted d8 0 true s t ∧
      exec (.sbi d8) s = .next u ∧ subtracted d8 (s.flag .c).toNat true s u ∧
      exec (.cpi d8) s = .next w ∧ subtracted d8 0 false s w

/-- `ANA` (R148), `XRA` (R149), `ORA` (R150), `ANI` (R156), `XRI` (R157), `ORI` (R158) over the logic cores (R143), every
operand form: `AC` is bit 3 of `A | v` for `ANA` and 0 for the rest. -/
def Obligations.LogicGroup : Prop :=
  (∀ r : Reg8, decodesTo [0b10#2 ++ AluOp.ana.code ++ r.code] (Fam.alu .ana (.reg r)) ∧
    decodesTo [0b10#2 ++ AluOp.xra.code ++ r.code] (Fam.alu .xra (.reg r)) ∧
    decodesTo [0b10#2 ++ AluOp.ora.code ++ r.code] (Fam.alu .ora (.reg r)) ∧
    ∀ s : State, let v := s.get8 r
      ∃ t u w, exec (Fam.alu .ana (.reg r)) s = .next t ∧
        logicResult (s.acc &&& v) (decide (((s.acc ||| v) &&& 0x08) ≠ 0)) s t ∧
        exec (Fam.alu .xra (.reg r)) s = .next u ∧ logicResult (s.acc ^^^ v) false s u ∧
        exec (Fam.alu .ora (.reg r)) s = .next w ∧ logicResult (s.acc ||| v) false s w) ∧
  (decodesTo [0xA6] .anaM ∧ decodesTo [0xAE] .xraM ∧ decodesTo [0xB6] .oraM ∧
    ∀ s : State, s.healthy → ∃ v s1 t u w, memRead (s.get16 .hl) s = .ok (v, s1) ∧ onlyCards s s1 ∧
      exec .anaM s = .next t ∧ logicResult (s.acc &&& v) (decide (((s.acc ||| v) &&& 0x08) ≠ 0)) s1 t ∧
      exec .xraM s = .next u ∧ logicResult (s.acc ^^^ v) false s1 u ∧
      exec .oraM s = .next w ∧ logicResult (s.acc ||| v) false s1 w) ∧
  ∀ d8 : Byte, decodesTo [0xE6, d8] (.ani d8) ∧ decodesTo [0xEE, d8] (.xri d8) ∧ decodesTo [0xF6, d8] (.ori d8) ∧
    ∀ s : State, ∃ t u w, exec (.ani d8) s = .next t ∧ logicResult (s.acc &&& d8) false s t ∧
      exec (.xri d8) s = .next u ∧ logicResult (s.acc ^^^ d8) false s u ∧
      exec (.ori d8) s = .next w ∧ logicResult (s.acc ||| d8) false s w

/-! ## Rotates, DAA and the rest (43_rotate_daa_misc.md) -/

/-- `RLC` (R170), `RRC` (R171), `RAL` (R172), `RAR` (R173), in arithmetic; they touch only `C`. -/
def Obligations.Rotates : Prop :=
  decodesTo [0x07] .rlc ∧ decodesTo [0x0F] .rrc ∧ decodesTo [0x17] .ral ∧ decodesTo [0x1F] .rar ∧
  ∀ s : State, let a := s.acc.toNat
    (∃ t, exec .rlc s = .next t ∧ rotated ((2 * a + a / 128) % 256) (decide (128 ≤ a)) s t) ∧
    (∃ t, exec .rrc s = .next t ∧ rotated (a / 2 + 128 * (a % 2)) (decide (a % 2 = 1)) s t) ∧
    (∃ t, exec .ral s = .next t ∧ rotated ((2 * a + (s.flag .c).toNat) % 256) (decide (128 ≤ a)) s t) ∧
    (∃ t, exec .rar s = .next t ∧ rotated (a / 2 + 128 * (s.flag .c).toNat) (decide (a % 2 = 1)) s t)

/-- `DAA` (R174). -/
def Obligations.DecimalAdjust : Prop :=
  decodesTo [0x27] .daa ∧
  ∀ s : State, ∃ t, exec .daa s = .next t ∧
    let lsb := s.acc.toNat % 16
    let msb := s.acc.toNat / 16
    let low := s.flag .ac || decide (9 < lsb)
    let high := s.flag .c || decide (9 < msb) || (decide (9 ≤ msb) && decide (9 < lsb))
    let corr := (if low then 0x06 else 0) + (if high then 0x60 else 0)
    t.acc = BitVec.ofNat 8 (s.acc.toNat + corr) ∧ t.flag .ac = decide (0x0F < lsb + corr % 16) ∧ t.flag .c = high ∧
    zspOf t.acc t ∧ onlyAccAndFlags s t

/-- After an addition of two bytes of decimal digits, `DAA` leaves the decimal sum, and the carry out of two digits
(42_alu.md R152, R153 and 43_rotate_daa_misc.md R174 together). -/
def Obligations.DecimalAddition : Prop :=
  ∀ (s : State) (d8 : Byte), isBcd s.acc → isBcd d8 →
    (∃ t u, exec (.adi d8) s = .next t ∧ exec .daa t = .next u ∧ isBcd u.acc ∧
      bcdValue u.acc = (bcdValue s.acc + bcdValue d8) % 100 ∧
      u.flag .c = decide (99 < bcdValue s.acc + bcdValue d8)) ∧
    (∃ t u, exec (.aci d8) s = .next t ∧ exec .daa t = .next u ∧ isBcd u.acc ∧
      bcdValue u.acc = (bcdValue s.acc + bcdValue d8 + (s.flag .c).toNat) % 100 ∧
      u.flag .c = decide (99 < bcdValue s.acc + bcdValue d8 + (s.flag .c).toNat))

/-- `CMA` (R175), `CMC` (R176), `STC` (R177), `NOP` (R178). -/
def Obligations.ComplementCarryNop : Prop :=
  decodesTo [0x2F] .cma ∧ decodesTo [0x3F] .cmc ∧ decodesTo [0x37] .stc ∧ decodesTo [0x00] .nop ∧
  ∀ s : State, exec .cma s = .next (s.set8 .a (s.get8 .a ^^^ 0xFF)) ∧
    exec .cmc s = .next (s.setFlag .c (!s.flag .c)) ∧ exec .stc s = .next (s.setFlag .c true) ∧ exec .nop s = .next s

/-! ## Control flow (44_control_flow.md) -/

/-- `JMP` (R185), `Jcc` (R186) with the conditions (30_encoding.md R88), `PCHL` (R192). -/
def Obligations.Jumps : Prop :=
  (∀ a : Word, decodesTo [0xC3, lo8 a, hi8 a] (.jmp a) ∧ ∀ s : State, exec (.jmp a) s = .next (s.set16 .pc a)) ∧
  (∀ (cc : Cond) (a : Word), decodesTo [0b11#2 ++ cc.code ++ 0b010#3, lo8 a, hi8 a] (Fam.jcc a cc) ∧
    ∀ s : State, (s.cond cc = true → exec (Fam.jcc a cc) s = .next (s.set16 .pc a)) ∧
      (s.cond cc = false → exec (Fam.jcc a cc) s = .next s)) ∧
  (∀ s : State, s.cond .nz = !s.flag .z ∧ s.cond .z = s.flag .z ∧ s.cond .nc = !s.flag .c ∧ s.cond .c = s.flag .c ∧
    s.cond .po = !s.flag .p ∧ s.cond .pe = s.flag .p ∧ s.cond .p = !s.flag .s ∧ s.cond .m = s.flag .s) ∧
  decodesTo [0xE9] .pchl ∧ ∀ s : State, exec .pchl s = .next (s.set16 .pc (s.get16 .hl))

/-- `CALL` (R187), `Ccc` taken and not taken (R188), `RST n` (R191). -/
def Obligations.Calls : Prop :=
  (∀ a : Word, decodesTo [0xCD, lo8 a, hi8 a] (.call a) ∧
    ∀ s : State, s.healthy → ∃ t, push16 (s.get16 .pc) s = .ok ((), t) ∧ exec (.call a) s = .next (t.set16 .pc a)) ∧
  (∀ (cc : Cond) (a : Word), decodesTo [0b11#2 ++ cc.code ++ 0b100#3, lo8 a, hi8 a] (Fam.ccc a cc) ∧
    ∀ s : State,
      (s.cond cc = true → s.healthy → ∃ t, push16 (s.get16 .pc) s = .ok ((), t) ∧
        exec (Fam.ccc a cc) s = .next (t.set16 .pc a)) ∧
      (s.cond cc = false → exec (Fam.ccc a cc) s = .next s)) ∧
  ∀ n : BitVec 3, decodesTo [0b11#2 ++ n ++ 0b111#3] (Fam.rst n) ∧
    ∀ s : State, s.healthy → ∃ t, push16 (s.get16 .pc) s = .ok ((), t) ∧
      exec (Fam.rst n) s = .next (t.set16 .pc (BitVec.ofNat 16 (8 * n.toNat)))

/-- `RET` (R189), `Rcc` taken and not taken (R190). -/
def Obligations.Returns : Prop :=
  decodesTo [0xC9] .ret ∧
  (∀ s : State, s.healthy → ∃ v t, pop16 s = .ok (v, t) ∧ exec .ret s = .next (t.set16 .pc v)) ∧
  ∀ cc : Cond, decodesTo [0b11#2 ++ cc.code ++ 0b000#3] (Fam.rcc cc) ∧
    ∀ s : State,
      (s.cond cc = true → s.healthy → ∃ v t, pop16 s = .ok (v, t) ∧ exec (Fam.rcc cc) s = .next (t.set16 .pc v)) ∧
      (s.cond cc = false → exec (Fam.rcc cc) s = .next s)

/-- Where RAM holds the stack, a `RET` after a `CALL` is back behind the call with every register as it was
(44_control_flow.md R187, R189). -/
def Obligations.CallThenReturn : Prop :=
  ∀ (s : State) (a : Word), s.healthy → s.ramAt (s.get16 .sp - 2) = true → s.ramAt (s.get16 .sp - 1) = true →
    ∃ t u, exec (.call a) s = .next t ∧ t.get16 .pc = a ∧ t.get16 .sp = s.get16 .sp - 2 ∧
      exec .ret t = .next u ∧ u.regs = s.regs

/-! ## Stack, ports, interrupt enable, halt (45_stack_io_control.md) -/

/-- `Push16` (R200) and `Pop16` (R201): `SP` modulo 2^16, low byte at the lower address and first. An access that fails ends
them there: `SP` is lowered before the first store and raised after the last read. -/
def Obligations.PushAndPopPrimitives : Prop :=
  ∀ s : State,
    (s.healthy → ∀ v : Word, ∃ s1 s2, memWrite (s.get16 .sp - 2) (lo8 v) s = .ok ((), s1) ∧
      memWrite (s.get16 .sp - 1) (hi8 v) s1 = .ok ((), s2) ∧ onlyCards s s2 ∧
      push16 v s = .ok ((), s2.set16 .sp (s.get16 .sp - 2))) ∧
    (∀ v u, memWrite (s.get16 .sp - 2) (lo8 v) s = .error (.endpointIoError u) →
      push16 v s = .error (.endpointIoError (u.set16 .sp (s.get16 .sp - 2)))) ∧
    (∀ v s1 u, memWrite (s.get16 .sp - 2) (lo8 v) s = .ok ((), s1) →
      memWrite (s.get16 .sp - 1) (hi8 v) s1 = .error (.endpointIoError u) →
      push16 v s = .error (.endpointIoError (u.set16 .sp (s.get16 .sp - 2)))) ∧
    (s.healthy → ∃ lo s1 hi s2, memRead (s.get16 .sp) s = .ok (lo, s1) ∧
      memRead (s.get16 .sp + 1) s1 = .ok (hi, s2) ∧ onlyCards s s2 ∧
      pop16 s = .ok (pair hi lo, s2.set16 .sp (s.get16 .sp + 2))) ∧
    (∀ f, memRead (s.get16 .sp) s = .error f → pop16 s = .error f) ∧
    (∀ lo s1 f, memRead (s.get16 .sp) s = .ok (lo, s1) → memRead (s.get16 .sp + 1) s1 = .error f → pop16 s = .error f) ∧
    (s.unmapped false (s.get16 .sp) → s.unmapped false (s.get16 .sp + 1) →
      pop16 s = .ok (0xFFFF, s.set16 .sp (s.get16 .sp + 2)))

/-- `PUSH` (R202, R203) and `POP` (R204, R205): `PSW` is `AF`, and a popped `F` is normalised. -/
def Obligations.PushAndPop : Prop :=
  ∀ x : StackPair,
    decodesTo [0b11#2 ++ x.code ++ 0b0101#4] (Fam.push x) ∧ decodesTo [0b11#2 ++ x.code ++ 0b0001#4] (Fam.pop x) ∧
    ∀ s : State, s.healthy →
      (∃ t, push16 (s.get16 (stackCell x)) s = .ok ((), t) ∧ exec (Fam.push x) s = .next t) ∧
      (∃ v t u, pop16 s = .ok (v, t) ∧ exec (Fam.pop x) s = .next u ∧ u = t.set16 (stackCell x) v ∧
        (x ≠ .psw → u.get16 (stackCell x) = v ∧ u.getF = s.getF) ∧
        (x = .psw → u.get8 .a = hi8 v ∧ u.getF = (lo8 v &&& 0xD7) ||| 0x02))

/-- Where RAM holds the stack, `PUSH` then `POP` of one pair restores every register, `A` and `F` exactly
(45_stack_io_control.md R205), and memory but for the two stack bytes. -/
def Obligations.PushThenPop : Prop :=
  ∀ (s : State) (x : StackPair), s.healthy → s.flagsMasked → s.ramAt (s.get16 .sp - 2) = true →
    s.ramAt (s.get16 .sp - 1) = true →
    ∃ t u, exec (Fam.push x) s = .next t ∧ t.get16 .sp = s.get16 .sp - 2 ∧
      t.peek false (s.get16 .sp - 2) = some (lo8 (s.get16 (stackCell x))) ∧
      t.peek false (s.get16 .sp - 1) = some (hi8 (s.get16 (stackCell x))) ∧
      exec (Fam.pop x) t = .next u ∧ u.regs = s.regs ∧
      ∀ a, a ≠ s.get16 .sp - 2 → a ≠ s.get16 .sp - 1 → u.peek false a = s.peek false a

/-- `XTHL` (R206): two reads, then two writes, `L` with the byte at `SP`; `SP` and flags stay. -/
def Obligations.ExchangeStackTop : Prop :=
  decodesTo [0xE3] .xthl ∧
  ∀ s : State, s.healthy → ∃ l s1 h s2 s3 t, memRead (s.get16 .sp) s = .ok (l, s1) ∧
    memRead (s.get16 .sp + 1) s1 = .ok (h, s2) ∧ memWrite (s.get16 .sp) (s.get8 .l) s2 = .ok ((), s3) ∧
    memWrite (s.get16 .sp + 1) (s.get8 .h) s3 = .ok ((), t) ∧ onlyCards s t ∧
    exec .xthl s = .next ((t.set8 .l l).set8 .h h)

/-- `IN` (R207) and `OUT` (R208) at the duplicated port address; on the flat-array variant, which the model has by its own
choice (log 10), both fault (60_exceptions.md R264). -/
def Obligations.PortInputOutput : Prop :=
  ∀ p : Byte, decodesTo [0xDB, p] (.inPort p) ∧ decodesTo [0xD3, p] (.outPort p) ∧
    (portAddr p).toNat = p.toNat + 256 * p.toNat ∧
    ∀ s : State,
      (s.params.flatArrayBus = false → s.healthy →
        (∃ v s1, busRead (portAddr p) true s = .ok (v, s1) ∧ onlyCards s s1 ∧
          exec (.inPort p) s = .next (s1.set8 .a v)) ∧
        (∃ t, busWrite (portAddr p) (s.get8 .a) true s = .ok ((), t) ∧ onlyCards s t ∧
          exec (.outPort p) s = .next t)) ∧
      (s.params.flatArrayBus = true → exec (.inPort p) s = .fault (.unsupportedPortIo s) ∧
        exec (.outPort p) s = .fault (.unsupportedPortIo s))

/-- `EI` (R209), in force at the boundary right after it; `DI` (R210); `HLT` (R211), after which a step does nothing while
no interrupt is accepted. -/
def Obligations.InterruptEnableAndHalt : Prop :=
  decodesTo [0xFB] .ei ∧ decodesTo [0xF3] .di ∧ decodesTo [0x76] .hlt ∧
  ∀ s : State,
    exec .ei s = .next { s with interruptsEnabled := true } ∧
    (∀ inst, irqSlots s.params (askCards s).slots = some inst →
      ∃ u, boundaryCheck { s with interruptsEnabled := true } = .accept inst u) ∧
    exec .di s = .next { s with interruptsEnabled := false } ∧
    boundaryCheck { s with interruptsEnabled := false } = .go { s with interruptsEnabled := false } ∧
    exec .hlt s = .next { s with halted := true } ∧
    (s.halted = true → boundaryCheck s = .go s → step s = .next s)

/-! ## Frames of every instruction -/

/-- An instruction changes no flag but those 10_state.md R17 lists for it, and leaves a masked `F` masked (R14). -/
def Obligations.FlagsFrame : Prop :=
  ∀ (i : Instr) (s t : State), exec i s = .next t →
    (∀ x, x ∉ flagsWritten i → t.flag x = s.flag x) ∧ (s.flagsMasked → t.flagsMasked)

/-- An instruction changes no 8-bit register but those its rule names. -/
def Obligations.RegistersFrame : Prop :=
  ∀ (i : Instr) (s t : State), exec i s = .next t → keeps8 (regsWritten i) s t

/-- `SP` is written by the instructions 10_state.md R19 lists only, and by execution `pc` is written by the control
transfers only (R18). -/
def Obligations.StackPointerAndPcFrame : Prop :=
  ∀ (i : Instr) (s t : State), exec i s = .next t →
    (writesSp i = false → t.get16 .sp = s.get16 .sp) ∧ (writesPc i = false → t.get16 .pc = s.get16 .pc)

/-- `halted` is set by `HLT` only, `interrupts_enabled` changes by `EI` and `DI` only (10_state.md R20); no instruction
touches `just_booted`, the operand buffer, the print sink or the parameters. -/
def Obligations.ControlStateFrame : Prop :=
  ∀ (i : Instr) (s t : State), exec i s = .next t →
    (i ≠ .hlt → t.halted = s.halted) ∧ (i ≠ .ei → i ≠ .di → t.interruptsEnabled = s.interruptsEnabled) ∧
    t.justBooted = s.justBooted ∧ t.irqQueue = s.irqQueue ∧ t.sink = s.sink ∧ t.params = s.params

/-- Every byte of the memory space outside the addresses an instruction stores to reads as before, and every byte of the
port space outside the port `OUT` writes (20_memory.md R58). -/
def Obligations.MemoryFrame : Prop :=
  ∀ (i : Instr) (s t : State), exec i s = .next t →
    (∀ a, a ∉ storesAt s i → t.peek false a = s.peek false a) ∧
    (∀ a, (∀ p, i = .outPort p → a ≠ portAddr p) → t.peek true a = s.peek true a)

/-- Every defined instruction completes in every state whose endpoints do not fail (20_memory.md R52, 60_exceptions.md
R267); port I/O needs the card bus. -/
def Obligations.DefinedInstructionsComplete : Prop :=
  ∀ (i : Instr) (s : State), i.defined = true → s.healthy →
    (s.params.flatArrayBus = false ∨ ∀ p, i ≠ .inPort p ∧ i ≠ .outPort p) →
    ∃ t, exec i s = .next t ∧ t.healthy

/-- The faults of an instruction, each with where it arises and the state it leaves (60_exceptions.md R261, R264, R265): one of
the twelve undefined bytes, `IN` and `OUT` of the flat-array variant (log 10), or an operand access of the instruction that
reaches a serial card whose endpoint fails. The last leaves every register half as it was; for `L` at the second read of
`LHLD` that is no rule of the spec but the model's choice (log 16). -/
def Obligations.ExecuteFaults : Prop :=
  ∀ (i : Instr) (s : State),
    (∀ r, exec i s ≠ .refused r) ∧
    ∀ f, exec i s = .fault f →
      (∃ op, i = .undefinedOpcode op ∧ f = .unknownOpcode op s ∧ (i.wf = true → op ∈ undefinedOpcodes)) ∨
      (s.params.flatArrayBus = true ∧ f = .unsupportedPortIo s ∧ ∃ p, i = .inPort p ∨ i = .outPort p) ∨
      (¬ s.healthy ∧ ∃ a io s0 u, f = .endpointIoError u ∧ (a, io) ∈ touches s i ∧ abandoned i s s0 ∧ failsAt a io s0 u ∧
        u.regs = s0.regs ∧ abandoned i s u)

/-! ## The bus (20_memory.md) -/

/-- A read returns the first matching card's byte and touches only that card; `0xFF` when none matches (R48). Which accesses a
data or `Other` card matches (R40, R41), and what a data card gives (R46). Where the first matching card's endpoint fails, the
read is the fault `EndpointIoError` with that card as the failing call left it (50_acia_6850.md R238, 60_exceptions.md
R265). -/
def Obligations.FirstMatchingCardIsRead : Prop :=
  ∀ (s : State) (a : Word) (io : Bool),
    (s.unmapped io a → busRead a io s = .ok (0xFF, s)) ∧
    (∀ pre sl post, s.slots = pre ++ some sl :: post → (∀ x, some x ∈ pre → x.answers a io = false) →
      sl.answers a io = true →
      (∀ v c1, sl.card.read s.params a = .ok (v, c1) →
        busRead a io s = .ok (v, { s with slots := pre ++ some { sl with card := c1 } :: post })) ∧
      (∀ c1, sl.card.read s.params a = .error c1 →
        busRead a io s = .error (.endpointIoError { s with slots := pre ++ some { sl with card := c1 } :: post }))) ∧
    (∀ c : DataCard, ((Card.data c).answers a io = true ↔
        c.isIo = io ∧ c.startAdr.toNat ≤ a.toNat ∧ a.toNat < c.startAdr.toNat + c.adrRange) ∧
      (Card.data c).read s.params a = .ok (c.read a, .data c)) ∧
    ∀ c : OtherCard, (Card.other c).answers a io = true ↔
      c.isIo = io ∧ c.startAdr.toNat ≤ a.toNat ∧ a.toNat < c.startAdr.toNat + c.adrRange

/-- A write reaches every matching card, in slot order, and no other; where none matches it is dropped (R49). A locked data card
is left as it is, an unlocked one has the byte and every other byte as before (R46). Where a matching card's endpoint fails,
the write is the fault `EndpointIoError`: the cards before it are written, that card is as the failing call left it, the cards
after it are not touched (50_acia_6850.md R238, 60_exceptions.md R265). -/
def Obligations.EveryMatchingCardIsWritten : Prop :=
  ∀ (s : State) (a : Word) (v : Byte) (io : Bool),
    (s.healthy → ∃ t, busWrite a v io s = .ok ((), t) ∧ onlyCards s t ∧
      List.Forall₂ (WroteSlot false a v io) s.slots t.slots) ∧
    (s.unmapped io a → busWrite a v io s = .ok ((), s)) ∧
    (∀ c : DataCard,
      (c.writeLocked = true → (Card.data c).write false a v = .ok (.data c)) ∧
      (c.writeLocked = false → (Card.data c).answers a io = true →
        ∃ d, (Card.data c).write false a v = .ok (.data d) ∧ d = { c with mem := d.mem } ∧ d.read a = v ∧
          ∀ b, (Card.data c).answers b io = true → b ≠ a → d.read b = c.read b)) ∧
    ∀ pre pre1 sl post c1, s.slots = pre ++ some sl :: post → List.Forall₂ (WroteSlot false a v io) pre pre1 →
      sl.answers a io = true → sl.card.write false a v = .error c1 →
      busWrite a v io s = .error (.endpointIoError { s with slots := pre1 ++ some { sl with card := c1 } :: post })

/-- A byte written where RAM answers first is the byte read from then on; where ROM answers first the write changes nothing
that is read there; no other byte changes (R46, R61). -/
def Obligations.WrittenByteIsRead : Prop :=
  ∀ (s : State) (a : Word) (v : Byte), s.healthy → ∃ t, memWrite a v s = .ok ((), t) ∧
    (s.ramAt a = true → t.peek false a = some v ∧ memRead a t = .ok (v, t)) ∧
    (s.ramAt a = false → s.dataAt a → t.peek false a = s.peek false a) ∧
    ∀ b io, (b, io) ≠ (a, false) → t.peek io b = s.peek io b

/-- Construction of a data card (20_memory.md R46, 70_reset_and_hazards.md R302): an image longer than the card is refused;
otherwise `init` and then `FILL_BYTE`. A new serial card is in its reset state (R302). `insert`: its checks in order (R42),
and that what it lets in keeps the cards that may not overlap disjoint (R44); a serial card with base `0xFF` is refused
(50_acia_6850.md R221). `remove` (R43), after which an address only that slot served reads `0xFF`. The kinds of the two
refusals the spec leaves unnamed, and their place before the other checks, are the model's (log 13). -/
def Obligations.SlotRegistry : Prop :=
  (∀ (start : Word) (range : Nat) (io lock : Bool) (init : List Byte) (fill : Byte),
    (range < init.length → DataCard.construct start range io lock init fill = .error .invalidArgument) ∧
    (init.length ≤ range → ∃ c, DataCard.construct start range io lock init fill = .ok c ∧
      c = ⟨start, range, io, lock, fill, c.mem⟩ ∧ c.wf ∧
      ∀ a, start.toNat ≤ a.toNat → a.toNat < start.toNat + range →
        c.read a = init.getD (a.toNat - start.toNat) fill)) ∧
  (∀ (start : Word) (io : Bool) (rx : List RxReply) (txFail : List Bool),
    SerialCard.construct start io rx txFail = {
      startAdr := start, isIo := io, status := 0x02, control := 0x95, rxData := 0x00, txData := 0x00, divisor := .div16,
      rts := 1, format := ⟨.eight, .none, .one⟩, rx := rx, txFail := txFail, log := [] }) ∧
  ∀ s : State, s.slots.length = nSlots →
    (∀ n al, insertCard none n al s = .error .invalidArgument) ∧
    (∀ c n al, c.startAdr.toNat % 256 = 0xFF → insertCard (some (.serial c)) n al s = .error .invalidArgument) ∧
    (∀ c n al, (∀ sc, c = .serial sc → sc.startAdr.toNat % 256 ≤ 0xFE) →
      (18 ≤ n → insertCard (some c) n al s = .error .outOfRange) ∧
      (∀ sl, s.slots[n]? = some (some sl) → insertCard (some c) n al s = .error .slotOccupied) ∧
      (s.slots[n]? = some none →
        ((∃ (m : Nat) (sl : Slot), s.slots[m]? = some (some sl) ∧ sl.allowConflict = false ∧ c.overlaps sl.card = true) →
          insertCard (some c) n al s = .error .conflict) ∧
        ((¬ ∃ (m : Nat) (sl : Slot), s.slots[m]? = some (some sl) ∧ sl.allowConflict = false ∧ c.overlaps sl.card = true) →
          ∃ t, insertCard (some c) n al s = .ok t ∧
            t = { s with slots := s.slots.set n (some { card := c, allowConflict := al }) } ∧
            (s.slotsDisjoint → t.slotsDisjoint)))) ∧
    (∀ n, 18 ≤ n → removeCard n s = .error .outOfRange) ∧
    (∀ n, n < 18 → ∃ t, removeCard n s = .ok t ∧ t = { s with slots := s.slots.set n none } ∧
      ∀ a io, (∀ (m : Nat) (sl : Slot), m ≠ n → s.slots[m]? = some (some sl) → sl.answers a io = false) →
        busRead a io t = .ok (0xFF, t))

/-- `load` (70_reset_and_hazards.md R305): its three errors before the first write; otherwise every loaded byte, and the
reset vector, is read back wherever a data card answers first, ROM too, and no other byte changes. -/
def Obligations.LoaderWrites : Prop :=
  ∀ (s : State) (bytes : List Byte) (offset : Word) (auto : Bool),
    (bytes.length = 0 → load bytes offset auto s = .error (.host .invalidArgument)) ∧
    (bytes.length ≠ 0 → 0x10000 < offset.toNat + bytes.length → load bytes offset auto s = .error (.host .outOfRange)) ∧
    (bytes.length ≠ 0 → offset.toNat + bytes.length ≤ 0x10000 → auto = true → offset.toNat < 3 →
      load bytes offset auto s = .error (.host .outOfRange)) ∧
    (bytes.length ≠ 0 → offset.toNat + bytes.length ≤ 0x10000 → (auto = true → 3 ≤ offset.toNat) → s.healthy →
      ∃ t, load bytes offset auto s = .ok t ∧ onlyCards s t ∧
        (∀ n (h : n < bytes.length), s.dataAt (offset + BitVec.ofNat 16 n) →
          t.peek false (offset + BitVec.ofNat 16 n) = some bytes[n]) ∧
        (auto = true → (s.dataAt 0 → t.peek false 0 = some 0xC3) ∧ (s.dataAt 1 → t.peek false 1 = some (lo8 offset)) ∧
          (s.dataAt 2 → t.peek false 2 = some (hi8 offset))) ∧
        (∀ a io, (io = false → (a.toNat < offset.toNat ∨ offset.toNat + bytes.length ≤ a.toNat) ∧
          (auto = true → 3 ≤ a.toNat)) → t.peek io a = s.peek io a))

/-! ## The serial card (50_acia_6850.md) -/

/-- The partial decode (R221), the reads of the Status (R227) and Data ports (R228) and the write of the Data port (R235), forced
or not (R237), each after the receive poll (R226). An endpoint failure ends the access there: in the poll with no register
changed, in `putch` with the byte latched and `TDRE` still 0 (R238, 60_exceptions.md R265; what the scripts and the log then
hold is log 6's). -/
def Obligations.SerialPorts : Prop :=
  ∀ c : SerialCard,
    (∀ (a : Word) (io : Bool), ((Card.serial c).answers a io = true ↔ c.isIo = io ∧
        (a.toNat % 256 = c.startAdr.toNat % 256 ∨ a.toNat % 256 = c.startAdr.toNat % 256 + 1)) ∧
      (c.selectsControl a = true ↔ a.toNat % 256 = c.startAdr.toNat % 256)) ∧
    (c.startAdr.toNat % 256 ≤ 0xFE → ∀ p : Byte, (Card.serial c).answers (portAddr p) true = true ↔ c.isIo = true ∧
      (p = lo8 c.startAdr ∨ p = lo8 c.startAdr + 1)) ∧
    ∀ (p : Params) (a : Word) (v : Byte) (force : Bool),
      (c.pollFails → ∃ d, d = { c with rx := d.rx } ∧ (Card.serial c).read p a = .error (.serial d) ∧
        (Card.serial c).write force a v = .error (.serial d)) ∧
      (¬ c.pollFails →
        (c.selectsControl a = true → (Card.serial c).read p a = .ok (c.afterPoll.status, .serial c.afterPoll)) ∧
        (c.selectsControl a = false →
          (Card.serial c).read p a = .ok (c.afterPoll.rxData, .serial (if p.aciaRdrfClearOnRead
            then { c.afterPoll with status := c.afterPoll.status &&& 0xFE } else c.afterPoll)) ∧
          (¬ c.putFails → (Card.serial c).write force a v = .ok (.serial { c.afterPoll with
            txData := v, status := c.afterPoll.status ||| 0x02, log := c.log ++ [.put v], txFail := c.txFail.tail })) ∧
          (c.putFails → ∃ d, (Card.serial c).write force a v = .error (.serial d) ∧ d = { c.afterPoll with
            txData := v, status := c.afterPoll.status &&& 0xFD, log := d.log, txFail := d.txFail })))

/-- The write of the Control port (R230), forced or not (R237), with the word-select table (R229), the master reset (R231), the
TX control field (R232) and the mirrored interrupt bit (R233), on a card whose status is one a bus access can leave (R236).
Where `send_break` fails, the fields before it have acted and those after it have not (R238, 60_exceptions.md R265; what
the script and the log then hold is log 6's). -/
def Obligations.SerialControlWrite : Prop :=
  ∀ (c : SerialCard) (a : Word) (v : Byte) (force : Bool), c.statusLegal → c.selectsControl a = true → ¬ c.pollFails →
    ((v &&& 0x60 = 0x60 → ¬ c.putFails) → ∃ t, (Card.serial c).write force a v = .ok (.serial t) ∧
      c.fieldsSet v t ∧ t.control = v ∧ t.rts = (if v &&& 0x60 = 0x40 then 0 else 1) ∧
      t.log = c.log ++ (if v &&& 0x60 = 0x60 then [.sendBreak] else []) ∧
      t.txFail = (if v &&& 0x60 = 0x60 then c.txFail.tail else c.txFail) ∧
      t.status = (if v &&& 0x03 = 0x03 then 0x02 else c.afterPoll.status &&& 0x7F) ||| (v &&& 0x80)) ∧
    (v &&& 0x60 = 0x60 → c.putFails → ∃ t, (Card.serial c).write force a v = .error (.serial t) ∧
      c.fieldsSet v t ∧ t.rts = 1 ∧ t.control = (if v &&& 0x03 = 0x03 then 0x95 else c.control) ∧
      t.status = (if v &&& 0x03 = 0x03 then 0x02 else c.afterPoll.status))

/-! ## Interrupts (60_exceptions.md) -/

/-- The request of a card (R270): a data card never requests, a serial card only with `ACIA_IRQ_WIRED` and `STATUS.IRQ`
(50_acia_6850.md R237), an `Other` card by its level. Aggregation (R271): a request exists when some card raises one, and the
lowest slot that does supplies the instruction; `NoIrq` when none does (R263). -/
def Obligations.LowestSlotInterrupts : Prop :=
  (∀ (p : Params) (c : DataCard), (Card.data c).irqRequest p = none) ∧
  (∀ (p : Params) (c : SerialCard), (Card.serial c).irqRequest p =
    if p.aciaIrqWired = true ∧ c.status &&& 0x80 ≠ 0 then some Config.aciaIrqInst else none) ∧
  (∀ (p : Params) (c : OtherCard), (Card.other c).irqRequest p = if c.irq = true then some c.inst else none) ∧
  ∀ s : State,
    (busIsIrq s = true ↔ ∃ sl, some sl ∈ s.slots ∧ (sl.card.irqRequest s.params).isSome = true) ∧
    (busIsIrq s = false → busGetIrq s = .error .noIrq) ∧
    ∀ pre sl post inst, s.slots = pre ++ some sl :: post →
      (∀ x, some x ∈ pre → x.card.irqRequest s.params = none) → sl.card.irqRequest s.params = some inst →
      busGetIrq s = .ok inst

/-- Acceptance (R274): the boundary check of a state with interrupts enabled and a request makes the step an acceptance, which
executes the instruction the card's bytes decode to, its operands from those bytes, `pc` not advanced, and empties the
buffer. -/
def Obligations.AcceptanceRunsCardInstruction : Prop :=
  ∀ (s : State) (inst : IrqInst), s.interruptsEnabled = true → irqSlots s.params (askCards s).slots = some inst →
    step s = acceptInterrupt inst (askCards s) ∧
    ∀ (s1 t : State) (i : Instr) (rest : List Byte), enterInterrupt inst (askCards s) = .ok ((), s1) →
      decode [inst.b0, inst.b1, inst.b2] = .ok (i, rest) → exec i { s1 with irqQueue := rest } = .next t →
      s1.get16 .pc = s.get16 .pc ∧ step s = .next { t with irqQueue := [] }

/-- Acceptance of `RST n` (R274, R278): interrupts disabled, `pc` at the vector, the interrupted `pc` pushed twice, or once
without `IRQ_ACCEPT_PUSHES_PC`, `halted` cleared only with `IRQ_WAKES_HALT` (R275); no other register, control state or byte
of memory, not the sink, the parameters or the bus configuration has changed. -/
def Obligations.RestartInterrupt : Prop :=
  ∀ (s : State) (n : BitVec 3) (b1 b2 : Byte), s.healthy → s.interruptsEnabled = true →
    irqSlots s.params (askCards s).slots = some ⟨0b11#2 ++ n ++ 0b111#3, b1, b2⟩ →
    ∃ t, step s = .next t ∧ t.get16 .pc = BitVec.ofNat 16 (8 * n.toNat) ∧
      t = { s with regs := t.regs, slots := t.slots, halted := s.halted && !s.params.irqWakesHalt,
                   interruptsEnabled := false, irqQueue := [] } ∧
      busConfig t = busConfig s ∧ keeps8 [] s t ∧ t.getF = s.getF ∧
      t.get16 .sp = s.get16 .sp - (if s.params.irqAcceptPushesPc then 4 else 2) ∧
      (s.ramAt (s.get16 .sp - 2) = true → t.peek false (s.get16 .sp - 2) = some (lo8 (s.get16 .pc))) ∧
      (s.ramAt (s.get16 .sp - 1) = true → t.peek false (s.get16 .sp - 1) = some (hi8 (s.get16 .pc))) ∧
      (s.params.irqAcceptPushesPc = true →
        (s.ramAt (s.get16 .sp - 4) = true → t.peek false (s.get16 .sp - 4) = some (lo8 (s.get16 .pc))) ∧
        (s.ramAt (s.get16 .sp - 3) = true → t.peek false (s.get16 .sp - 3) = some (hi8 (s.get16 .pc)))) ∧
      (∀ a, a ≠ s.get16 .sp - 1 → a ≠ s.get16 .sp - 2 →
        (s.params.irqAcceptPushesPc = true → a ≠ s.get16 .sp - 3 ∧ a ≠ s.get16 .sp - 4) →
        t.peek false a = s.peek false a) ∧
      ∀ a, t.peek true a = s.peek true a

/-- The machine's steps are the run loop's cycles (R272) cut at the boundary (log 5). From a state whose check lets `Step()` run,
a cycle of at most `n` acceptances ends in `t` iff one step and then steps that are acceptances reach a state whose check
gives `t`; it faults iff that step does or, after acceptances, an acceptance does; it has no end within `n` iff `n`
acceptances leave another one to come. -/
def Obligations.CycleIsSteps : Prop :=
  ∀ (n : Nat) (s0 s : State), boundaryCheck s0 = .go s →
    (∀ t, cycle n s = some (.next t) ↔
      ∃ k u0 u, k ≤ n ∧ step s0 = .next u0 ∧ acceptancesTo k u0 u ∧ boundaryCheck u = .go t) ∧
    (∀ f, cycle n s = some (.fault f) ↔ step s0 = .fault f ∨
      ∃ k u0 u, k < n ∧ step s0 = .next u0 ∧ acceptancesTo k u0 u ∧ u.accepts ∧ step u = .fault f) ∧
    (cycle n s = none ↔ ∃ u0 u, step s0 = .next u0 ∧ acceptancesTo n u0 u ∧ u.accepts)

/-! ## The pseudo-BDOS shim (60_exceptions.md) -/

/-- At `pc = 0x0005` with the shim on (R287): function 2 prints `E`, function 9 the string at `DE` up to `$`, both return as
`RET` does; any other number is the fault `InvalidBdosCall` with nothing changed (R262). -/
def Obligations.BdosPrints : Prop :=
  ∀ s : State, s.params.pseudoBdos = true → s.halted = false → s.irqQueue = [] → s.get16 .pc = 0x0005 →
    (∀ b lo hi, s.peek false 0x0005 = some b → s.peek false (s.get16 .sp) = some lo →
      s.peek false (s.get16 .sp + 1) = some hi →
      (s.get8 .c = 0x02 →
        cpuStep s = .next ({ s.set16 .sp (s.get16 .sp + 2) with sink := s.sink ++ [s.get8 .e] }.set16 .pc (pair hi lo))) ∧
      (s.get8 .c = 0x09 → ∀ text : List Byte, 0x24 ∉ text → text.length < 65536 →
        bytesAt s (s.get16 .de) (text ++ [0x24]) →
        cpuStep s = .next ({ s.set16 .sp (s.get16 .sp + 2) with sink := s.sink ++ text }.set16 .pc (pair hi lo)))) ∧
    (s.get8 .c ≠ 0x02 → s.get8 .c ≠ 0x09 → cpuStep s = .fault (.invalidBdosCall (s.get8 .c) s))

/-- At `pc = 0x0000` with the shim on (R286): the first visit clears `just_booted` and runs the instruction there; a later visit
writes `HLT` there, which halts with `pc` 1 where RAM answers, and is dropped where ROM or no card does: the step then
executes the instruction that is read there. A write that fails ends the step (R265). -/
def Obligations.BdosWarmBoot : Prop :=
  ∀ s : State, s.params.pseudoBdos = true → s.halted = false → s.irqQueue = [] → s.get16 .pc = 0x0000 →
    (s.justBooted = true → cpuStep s = runInstr { s with justBooted := false }) ∧
    (s.justBooted = false → s.healthy → ∃ t, memWrite 0x0000 0x76 s = .ok ((), t) ∧ onlyCards s t ∧
      cpuStep s = runInstr t ∧ (s.unmapped false 0x0000 → t = s) ∧
      (s.ramAt 0x0000 = true →
        cpuStep s = .next { t.set16 .pc 0x0001 with halted := true } ∧ t.peek false 0x0000 = some 0x76) ∧
      (s.ramAt 0x0000 = false → ∀ b, s.peek false 0x0000 = some b → t.peek false 0x0000 = some b ∧
        ∀ bs i, bytesAt s 0x0000 bs → decode bs = .ok (i, []) →
          cpuStep s = exec i (t.set16 .pc (BitVec.ofNat 16 bs.length)))) ∧
    (s.justBooted = false → ∀ f, memWrite 0x0000 0x76 s = .error f → cpuStep s = .fault f)
end

