-- ==== Sys2Proof/Laws/Word.lean ====
section
/-! SUPPORT. Laws of bytes, halves and single bits. -/

namespace Sys2Proof

@[simp] theorem hi8_pair (h l : Byte) : hi8 (pair h l) = h := by
  apply BitVec.eq_of_getLsbD_eq
  intro i hi
  simp only [hi8, pair, BitVec.getLsbD_extractLsb', BitVec.getLsbD_append, hi]
  simp [hi]

@[simp] theorem lo8_pair (h l : Byte) : lo8 (pair h l) = l := by
  apply BitVec.eq_of_getLsbD_eq
  intro i hi
  simp only [lo8, pair, BitVec.getLsbD_extractLsb', BitVec.getLsbD_append, hi]
  simp [hi]

@[simp] theorem pair_hi8_lo8 (w : Word) : pair (hi8 w) (lo8 w) = w := by
  apply BitVec.eq_of_getLsbD_eq
  intro i hi
  simp only [hi8, lo8, pair, BitVec.getLsbD_extractLsb', BitVec.getLsbD_append]
  by_cases h : i < 8
  · simp [h]
  · have h2 : i - 8 < 8 := by omega
    have h3 : 8 + (i - 8) = i := by omega
    simp [h, h2, h3]

/-- Two words with the same halves are the same word. -/
theorem word_ext {v w : Word} (h : hi8 v = hi8 w) (l : lo8 v = lo8 w) : v = w := by
  rw [← pair_hi8_lo8 v, ← pair_hi8_lo8 w, h, l]

namespace Machine

theorem getLsbD_setBit (v : Byte) (i j : Nat) (b : Bool) (hi : i < 8) :
    (setBit v i b).getLsbD j = if j = i then b else v.getLsbD j := by
  unfold setBit
  by_cases h : j = i
  · subst h; cases b <;> simp [hi]
  · cases b <;> simp [h]
    · intro hv; exact ⟨BitVec.lt_of_getLsbD hv, by omega⟩
    · intro _ _ h3; omega

@[simp] theorem getLsbD_setBit_same (v : Byte) (i : Nat) (b : Bool) (hi : i < 8) :
    (setBit v i b).getLsbD i = b := by rw [getLsbD_setBit v i i b hi, if_pos rfl]

theorem getLsbD_setBit_ne (v : Byte) {i j : Nat} (b : Bool) (hi : i < 8) (h : j ≠ i) :
    (setBit v i b).getLsbD j = v.getLsbD j := by rw [getLsbD_setBit v i j b hi, if_neg h]

theorem setBit_setBit (v : Byte) (i : Nat) (b b' : Bool) (hi : i < 8) : setBit (setBit v i b) i b' = setBit v i b' := by
  apply BitVec.eq_of_getLsbD_eq
  intro j _
  simp only [getLsbD_setBit _ _ _ _ hi]
  split <;> rfl

theorem setBit_self {v : Byte} {i : Nat} {b : Bool} (hi : i < 8) (h : v.getLsbD i = b) : setBit v i b = v := by
  apply BitVec.eq_of_getLsbD_eq
  intro j _
  rw [getLsbD_setBit _ _ _ _ hi]
  split
  · next hj => rw [hj, h]
  · rfl

/-- A mask that leaves bit `i` out does not see it. -/
theorem setBit_and (v m : Byte) (i : Nat) (b : Bool) (hi : i < 8) (h : m.getLsbD i = false) :
    setBit v i b &&& m = v &&& m := by
  apply BitVec.eq_of_getLsbD_eq
  intro j _
  simp only [BitVec.getLsbD_and, getLsbD_setBit _ _ _ _ hi]
  split
  · next hj => rw [hj, h]; simp
  · rfl

end Machine

end Sys2Proof
end

