-- ==== Sys2Proof/Laws/Acia.lean ====
section
/-! SUPPORT. Laws of the serial card: what each of its actions can do (50_acia_6850.md R226 to R237). -/

namespace Sys2Proof.Machine.SerialCard

/-- Two cards with the same configuration. -/
def SameConfig (c c1 : SerialCard) : Prop := c1.startAdr = c.startAdr ∧ c1.isIo = c.isIo

theorem config_eq_of_same {c c1 : SerialCard} (h : SameConfig c c1) :
    (Card.serial c1).config = (Card.serial c).config := by
  simp [Card.config, h.1, h.2]

/-- All a receive poll can do. -/
theorem rxPoll_cases {c : SerialCard} {r : Except SerialCard SerialCard} (h : c.rxPoll = r) :
    r = .ok c ∨
    (∃ rest, c.rdrf = false ∧ c.rx = .idle :: rest ∧ r = .ok { c with rx := rest }) ∨
    (∃ b rest, c.rdrf = false ∧ c.rx = .byte b :: rest ∧
      r = .ok { c with rx := rest, rxData := b, status := setBit c.status 0 true }) ∨
    (∃ rest, c.rdrf = false ∧ c.rx = .fail :: rest ∧ r = .error { c with rx := rest }) := by
  subst h
  unfold rxPoll
  by_cases hr : c.rdrf = true
  · simp [hr]
  · rw [if_neg hr]
    have hr : c.rdrf = false := by simpa using hr
    split
    · exact .inl rfl
    · next rest h => exact .inr (.inl ⟨rest, hr, h, rfl⟩)
    · next b rest h => exact .inr (.inr (.inl ⟨b, rest, hr, h, rfl⟩))
    · next rest h => exact .inr (.inr (.inr ⟨rest, hr, h, rfl⟩))

/-- All an endpoint output call can do. -/
theorem emit_cases {c : SerialCard} {e : EndpointEvent} {r : Except SerialCard SerialCard} (h : c.emit e = r) :
    (∃ fs, (c.txFail = fs ∨ c.txFail = false :: fs) ∧ r = .ok { c with txFail := fs, log := c.log ++ [e] }) ∨
    (∃ fs, c.txFail = true :: fs ∧ r = .error { c with txFail := fs }) := by
  subst h
  unfold emit
  split
  · next h => exact .inl ⟨[], .inl h, by rw [← h]⟩
  · next fs h => exact .inl ⟨fs, .inr h, rfl⟩
  · next fs h => exact .inr ⟨fs, h, rfl⟩

theorem txFlush_of_tdre {c : SerialCard} (h : c.tdre = true) : c.txFlush = .ok c := by simp [txFlush, h]

theorem tdre_of_legal {c : SerialCard} (h : c.statusLegal) : c.tdre = true := by
  have := congrArg (fun v : Byte => v.getLsbD 1) h
  simpa [tdre] using this

/-! ## Configuration -/

theorem rxPoll_sameConfig {c c1 : SerialCard} (h : c.rxPoll = .ok c1 ∨ c.rxPoll = .error c1) : SameConfig c c1 := by
  rcases h with h | h <;>
    rcases rxPoll_cases h with h | ⟨_, _, _, h⟩ | ⟨_, _, _, _, h⟩ | ⟨_, _, _, h⟩ <;> cases h <;> exact ⟨rfl, rfl⟩

theorem emit_sameConfig {c c1 : SerialCard} {e : EndpointEvent} (h : c.emit e = .ok c1 ∨ c.emit e = .error c1) :
    SameConfig c c1 := by
  rcases h with h | h <;> rcases emit_cases h with ⟨_, _, h⟩ | ⟨_, _, h⟩ <;> cases h <;> exact ⟨rfl, rfl⟩

theorem txFlush_sameConfig {c c1 : SerialCard} (h : c.txFlush = .ok c1 ∨ c.txFlush = .error c1) : SameConfig c c1 := by
  unfold txFlush at h
  split at h
  · rcases h with h | h <;> cases h; exact ⟨rfl, rfl⟩
  · split at h
    · next c2 he => rcases h with h | h <;> cases h; have k := emit_sameConfig (.inl he); exact k
    · next c2 he => rcases h with h | h <;> cases h; exact emit_sameConfig (.inr he)

theorem SameConfig.trans {a b c : SerialCard} (h : SameConfig a b) (k : SameConfig b c) : SameConfig a c :=
  ⟨k.1.trans h.1, k.2.trans h.2⟩

theorem applyClockField_sameConfig (c : SerialCard) (v : Byte) : SameConfig c (c.applyClockField v) := by
  unfold applyClockField; split <;> exact ⟨rfl, rfl⟩

theorem applyTxField_sameConfig {c c1 : SerialCard} {v : Byte}
    (h : c.applyTxField v = .ok c1 ∨ c.applyTxField v = .error c1) : SameConfig c c1 := by
  unfold applyTxField at h
  split at h
  · rcases h with h | h <;> cases h; exact ⟨rfl, rfl⟩
  · rcases h with h | h <;> cases h; exact ⟨rfl, rfl⟩
  · rcases h with h | h <;> cases h; exact ⟨rfl, rfl⟩
  · have k := emit_sameConfig h; exact k

theorem controlDecode_sameConfig {c c1 : SerialCard} {v : Byte}
    (h : c.controlDecode v = .ok c1 ∨ c.controlDecode v = .error c1) : SameConfig c c1 := by
  unfold controlDecode at h
  refine (applyClockField_sameConfig c v).trans ?_
  generalize c.applyClockField v = c0 at h ⊢
  simp only at h
  split at h
  · next c3 he => rcases h with h | h <;> cases h; have k := applyTxField_sameConfig (.inr he); exact k
  · next c3 he => have k := txFlush_sameConfig h; have k0 := applyTxField_sameConfig (.inl he); exact SameConfig.trans (a := c0) k0 k

theorem write_sameConfig {c c1 : SerialCard} {a : Word} {v : Byte}
    (h : c.write a v = .ok c1 ∨ c.write a v = .error c1) : SameConfig c c1 := by
  unfold write writeControl writeData at h
  split at h
  · split at h
    · next c2 he => rcases h with h | h <;> cases h; exact rxPoll_sameConfig (.inr he)
    · next c2 he => exact (rxPoll_sameConfig (.inl he)).trans (controlDecode_sameConfig h)
  · split at h
    · next c2 he => rcases h with h | h <;> cases h; exact rxPoll_sameConfig (.inr he)
    · next c2 he => have k := txFlush_sameConfig h; exact (rxPoll_sameConfig (.inl he)).trans k

theorem read_ok_sameConfig {p : Params} {c c1 : SerialCard} {a : Word} {v : Byte} (h : c.read p a = .ok (v, c1)) :
    SameConfig c c1 := by
  unfold read readStatus readData at h
  split at h <;> split at h
  · cases h
  · next c2 he => cases h; exact rxPoll_sameConfig (.inl he)
  · cases h
  · next c2 he =>
    cases h
    have := rxPoll_sameConfig (.inl he)
    split <;> exact this

theorem read_error_sameConfig {p : Params} {c c1 : SerialCard} {a : Word} (h : c.read p a = .error c1) :
    SameConfig c c1 := by
  unfold read readStatus readData at h
  split at h <;> split at h <;> cases h
  all_goals next he => exact rxPoll_sameConfig (.inr he)

/-! ## Status -/

theorem legal_reset (c : SerialCard) : c.reset.statusLegal := by simp [statusLegal, reset]

theorem rxPoll_legal {c c1 : SerialCard} (hl : c.statusLegal) (h : c.rxPoll = .ok c1) : c1.statusLegal := by
  rcases rxPoll_cases h with h | ⟨_, _, _, h⟩ | ⟨_, _, _, _, h⟩ | ⟨_, _, _, h⟩ <;> cases h
  · exact hl
  · exact hl
  · exact (setBit_and _ _ 0 true (by decide) (by decide)).trans hl

theorem emit_ok_status {c c1 : SerialCard} {e : EndpointEvent} (h : c.emit e = .ok c1) : c1.status = c.status := by
  rcases emit_cases h with ⟨_, _, h⟩ | ⟨_, _, h⟩ <;> cases h; rfl

theorem applyClockField_legal {c : SerialCard} (hl : c.statusLegal) (v : Byte) : (c.applyClockField v).statusLegal := by
  unfold applyClockField; split
  · exact hl
  · exact hl
  · exact hl
  · exact legal_reset c

theorem applyTxField_ok_status {c c1 : SerialCard} {v : Byte} (h : c.applyTxField v = .ok c1) :
    c1.status = c.status := by
  unfold applyTxField at h
  split at h
  · cases h; rfl
  · cases h; rfl
  · cases h; rfl
  · have k := emit_ok_status h; exact k

/-- A write that completes leaves the status as the bus may see it (50_acia_6850.md R236). -/
theorem write_legal {c c1 : SerialCard} {a : Word} {v : Byte} (hl : c.statusLegal) (h : c.write a v = .ok c1) :
    c1.statusLegal := by
  unfold write writeControl writeData controlDecode at h
  split at h <;> split at h
  · cases h
  · next c2 he =>
    have h0 := applyClockField_legal (rxPoll_legal hl he) v
    generalize c2.applyClockField v = c0 at h h0
    simp only at h
    split at h
    · cases h
    · next c3 ht =>
      have hs : c3.status = c0.status := by have k := applyTxField_ok_status ht; exact k
      have h3 : ({ c3 with status := setBit c3.status 7 (v.getLsbD 7), control := v } : SerialCard).statusLegal :=
        (setBit_and _ _ 7 _ (by decide) (by decide)).trans (hs ▸ h0)
      rw [txFlush_of_tdre (tdre_of_legal h3)] at h
      cases h; exact h3
  · cases h
  · next c2 he =>
    have h2 := rxPoll_legal hl he
    have hb : c2.status.getLsbD 1 = true := tdre_of_legal h2
    unfold txFlush at h
    rw [if_neg (by simp only [tdre, getLsbD_setBit _ _ _ _ (show 1 < 8 by decide), if_true]; simp)] at h
    split at h
    · next c3 ht =>
      cases h
      have hs := emit_ok_status ht
      show setBit c3.status 1 true &&& 0x7E = 0x02
      rw [hs]
      show setBit (setBit c2.status 1 false) 1 true &&& 0x7E = 0x02
      rw [setBit_setBit _ _ _ _ (by decide), setBit_self (by decide) hb]
      exact h2
    · cases h

theorem read_legal {p : Params} {c c1 : SerialCard} {a : Word} {v : Byte} (hl : c.statusLegal)
    (h : c.read p a = .ok (v, c1)) : c1.statusLegal := by
  unfold read readStatus readData at h
  split at h <;> split at h
  · cases h
  · next c2 he => cases h; exact rxPoll_legal hl he
  · cases h
  · next c2 he =>
    cases h
    have h2 := rxPoll_legal hl he
    split
    · exact (setBit_and _ _ 0 false (by decide) (by decide)).trans h2
    · exact h2

/-! ## Healthy endpoints -/

theorem rxPoll_healthy {c : SerialCard} (hh : c.healthy) : ∃ c1, c.rxPoll = .ok c1 ∧ c1.healthy := by
  rcases rxPoll_cases (c := c) rfl with h | ⟨rest, _, hx, h⟩ | ⟨b, rest, _, hx, h⟩ | ⟨rest, _, hx, _⟩
  · exact ⟨_, h, hh⟩
  · exact ⟨_, h, fun hm => hh.1 (hx ▸ List.mem_cons_of_mem _ hm), hh.2⟩
  · exact ⟨_, h, fun hm => hh.1 (hx ▸ List.mem_cons_of_mem _ hm), hh.2⟩
  · exact absurd (hx ▸ List.mem_cons_self ..) hh.1

theorem emit_healthy {c : SerialCard} (hh : c.healthy) (e : EndpointEvent) :
    ∃ c1, c.emit e = .ok c1 ∧ c1.healthy := by
  rcases emit_cases (c := c) (e := e) rfl with ⟨fs, hf, h⟩ | ⟨fs, hf, _⟩
  · refine ⟨_, h, hh.1, fun hm => hh.2 ?_⟩
    rcases hf with hf | hf
    · rw [hf]; exact hm
    · rw [hf]; exact List.mem_cons_of_mem _ hm
  · exact absurd (hf ▸ List.mem_cons_self ..) hh.2

theorem txFlush_healthy {c : SerialCard} (hh : c.healthy) : ∃ c1, c.txFlush = .ok c1 ∧ c1.healthy := by
  unfold txFlush
  split
  · exact ⟨_, rfl, hh⟩
  · obtain ⟨c1, h, h1⟩ := emit_healthy hh (.put c.txData)
    rw [h]; exact ⟨_, rfl, h1⟩

theorem write_healthy {c : SerialCard} (hh : c.healthy) (a : Word) (v : Byte) :
    ∃ c1, c.write a v = .ok c1 ∧ c1.healthy := by
  obtain ⟨c1, h, h1⟩ := rxPoll_healthy hh
  unfold write writeControl writeData controlDecode
  split <;> rw [h] <;> simp only
  · have h2 : (c1.applyClockField v).healthy := by unfold applyClockField; split <;> exact h1
    generalize c1.applyClockField v = c2 at h2 ⊢
    have h3 : ∃ c3, ({ c2 with format := wordSelect (v.extractLsb' 2 3) } : SerialCard).applyTxField v = .ok c3 ∧ c3.healthy := by
      unfold applyTxField
      split
      · exact ⟨_, rfl, h2⟩
      · exact ⟨_, rfl, h2⟩
      · exact ⟨_, rfl, h2⟩
      · exact emit_healthy (c := { c2 with format := wordSelect (v.extractLsb' 2 3), rts := 1 }) h2 _
    obtain ⟨c3, h3, h4⟩ := h3
    rw [h3]
    exact txFlush_healthy h4
  · exact txFlush_healthy h1

theorem read_healthy {c : SerialCard} (hh : c.healthy) (p : Params) (a : Word) :
    ∃ v c1, c.read p a = .ok (v, c1) ∧ c1.healthy := by
  obtain ⟨c1, h, h1⟩ := rxPoll_healthy hh
  unfold read readStatus readData
  split <;> rw [h] <;> simp only
  · exact ⟨_, _, rfl, h1⟩
  · exact ⟨_, _, rfl, by split <;> exact h1⟩

end Sys2Proof.Machine.SerialCard
end

