-- ==== Sys2Proof/Laws/Memory.lean ====
section
/-! SUPPORT. Laws of memory: read after write, and that every operation keeps the canonical form (20_memory.md R46). -/

namespace Sys2Proof.Machine

namespace Memory

theorem read_insert (d v : Byte) (i j : Nat) (m : Memory) :
    read d (Memory.insert i v m) j = if j = i then v else read d m j := by
  induction m with
  | nil => simp [Memory.insert, read]
  | cons e rest ih =>
    obtain ⟨k, w⟩ := e
    unfold Memory.insert
    split
    · simp only [read]
    · split
      · next h => subst h; simp only [read]; split <;> rfl
      · simp only [read, ih]; split <;> [(split <;> [omega; rfl]); rfl]

theorem read_filter_same (d : Byte) (i : Nat) (m : Memory) : read d (m.filter (fun c => c.1 ≠ i)) i = d := by
  induction m with
  | nil => rfl
  | cons e rest ih =>
    by_cases h : e.1 = i
    · rw [List.filter_cons_of_neg (by simp [h]), ih]
    · rw [List.filter_cons_of_pos (by simp [h])]
      simp only [read, ih]; rw [if_neg (fun hh => h hh.symm)]

theorem read_filter_ne (d : Byte) {i j : Nat} (h : j ≠ i) (m : Memory) :
    read d (m.filter (fun c => c.1 ≠ i)) j = read d m j := by
  induction m with
  | nil => rfl
  | cons e rest ih =>
    by_cases he : e.1 = i
    · rw [List.filter_cons_of_neg (by simp [he]), ih]
      simp only [read]; rw [if_neg (by omega)]
    · rw [List.filter_cons_of_pos (by simp [he])]
      simp only [read, ih]

/-- A read after a write: the byte written at that offset, every other offset as before. -/
theorem read_write (d v : Byte) (i j : Nat) (m : Memory) :
    read d (write d m i v) j = if j = i then v else read d m j := by
  unfold write
  by_cases hv : v = d
  · subst hv
    by_cases hj : j = i
    · subst hj; rw [if_pos rfl, if_pos rfl]; exact read_filter_same ..
    · rw [if_pos rfl, if_neg hj]; exact read_filter_ne _ hj _
  · simp [hv, read_insert]

@[simp] theorem read_write_same (d v : Byte) (i : Nat) (m : Memory) : read d (write d m i v) i = v := by
  simp [read_write]

theorem read_write_ne (d v : Byte) {i j : Nat} (h : j ≠ i) (m : Memory) :
    read d (write d m i v) j = read d m j := by simp [read_write, h]

/-! ## The canonical form -/

theorem mem_insert {i : Nat} {v : Byte} {m : Memory} {e : Host.Cell} (h : e ∈ Memory.insert i v m) :
    e = (i, v) ∨ e ∈ m := by
  induction m with
  | nil => simpa [Memory.insert] using h
  | cons c rest ih =>
    unfold Memory.insert at h
    split at h
    · simpa using h
    · split at h
      · rcases List.mem_cons.mp h with h | h
        · exact .inl h
        · exact .inr (List.mem_cons_of_mem _ h)
      · rcases List.mem_cons.mp h with h | h
        · exact .inr (h ▸ List.mem_cons_self ..)
        · exact (ih h).imp_right (List.mem_cons_of_mem _)

theorem insert_sorted (i : Nat) (v : Byte) (m : Memory) (h : m.Pairwise (fun x y => x.1 < y.1)) :
    (Memory.insert i v m).Pairwise (fun x y => x.1 < y.1) := by
  induction m with
  | nil => simp [Memory.insert]
  | cons c rest ih =>
    have hc := fun e he => List.rel_of_pairwise_cons h (a' := e) he
    have hr := List.Pairwise.of_cons h
    unfold Memory.insert
    split
    · next hlt =>
      refine List.pairwise_cons.mpr ⟨?_, h⟩
      intro e he
      rcases List.mem_cons.mp he with he | he
      · exact he ▸ hlt
      · exact Nat.lt_trans hlt (hc e he)
    · split
      · next heq => exact List.pairwise_cons.mpr ⟨fun e he => heq ▸ hc e he, hr⟩
      · next h1 h2 =>
        refine List.pairwise_cons.mpr ⟨?_, ih hr⟩
        intro e he
        rcases mem_insert he with rfl | he
        · show c.1 < i; omega
        · exact hc e he

/-- A write below the capacity keeps the canonical form. -/
theorem wf_write {d : Byte} {cap : Nat} {m : Memory} (h : wf d cap m) {i : Nat} (hi : i < cap) (v : Byte) :
    wf d cap (write d m i v) := by
  unfold write
  split
  · exact ⟨h.1.filter _, fun c hc => h.2 c (List.mem_filter.mp hc).1⟩
  · next hv =>
    refine ⟨insert_sorted i v m h.1, fun c hc => ?_⟩
    rcases mem_insert hc with rfl | hc
    · exact ⟨hi, hv⟩
    · exact h.2 c hc

theorem wf_filled (d : Byte) (cap : Nat) (v : Byte) : wf d cap (filled d cap v) := by
  unfold filled
  split
  · exact ⟨.nil, by simp⟩
  · next hv =>
    refine ⟨?_, ?_⟩
    · rw [List.pairwise_map]; exact List.pairwise_lt_range
    · intro c hc
      obtain ⟨i, hi, rfl⟩ := List.mem_map.mp hc
      exact ⟨List.mem_range.mp hi, hv⟩

theorem wf_ofBytes (d : Byte) {cap : Nat} (bytes : List Byte) (h : bytes.length ≤ cap) : wf d cap (ofBytes d bytes) := by
  unfold ofBytes
  refine ⟨List.Pairwise.filter _ ?_, ?_⟩
  · have hs : (((List.range bytes.length).zip bytes).map Prod.fst).Pairwise (· < ·) := by
      rw [List.map_fst_zip (by simp)]; exact List.pairwise_lt_range
    exact List.pairwise_map.mp hs
  · intro c hc
    have hc := List.mem_filter.mp hc
    have h1 := List.mem_range.mp (List.of_mem_zip (a := c.1) (b := c.2) hc.1).1
    exact ⟨by omega, by simpa using hc.2⟩

/-- Every byte of a filled memory is the fill. -/
theorem read_filled (d v : Byte) {cap i : Nat} (h : i < cap) : read d (filled d cap v) i = v := by
  have key : ∀ l : List Nat, i ∈ l → read d (l.map fun j => (j, v)) i = v := by
    intro l
    induction l with
    | nil => simp
    | cons k rest ih =>
      intro hm
      simp only [List.map_cons, read]
      split
      · rfl
      · next hk => exact ih ((List.mem_cons.mp hm).resolve_left hk)
  unfold filled
  split
  · next hv => exact hv.symm
  · exact key _ (List.mem_range.mpr h)

/-- A memory made of bytes holds them from offset 0, and the default elsewhere. -/
theorem read_ofBytes (d : Byte) (bytes : List Byte) (i : Nat) : read d (ofBytes d bytes) i = bytes.getD i d := by
  have key : ∀ (l : List Byte) (k : Nat), read d (((List.range' k l.length).zip l).filter fun c => c.2 ≠ d) i =
      if k ≤ i then l.getD (i - k) d else d := by
    intro l
    induction l with
    | nil => intro k; simp [read]
    | cons b rest ih =>
      intro k
      simp only [List.length_cons, List.range'_succ, List.zip_cons_cons]
      by_cases hb : b = d
      · rw [List.filter_cons_of_neg (by simp [hb]), ih]
        rcases Nat.lt_trichotomy i k with h | h | h
        · rw [if_neg (by omega), if_neg (by omega)]
        · subst h; rw [if_neg (by omega), if_pos (Nat.le_refl _)]; simp [hb]
        · rw [if_pos (by omega), if_pos (by omega), show i - k = (i - (k + 1)) + 1 by omega]; simp
      · rw [List.filter_cons_of_pos (by simp [hb])]
        simp only [read, ih]
        rcases Nat.lt_trichotomy i k with h | h | h
        · rw [if_neg (by omega), if_neg (by omega), if_neg (by omega)]
        · subst h; simp
        · rw [if_neg (by omega), if_pos (by omega), if_pos (by omega), show i - k = (i - (k + 1)) + 1 by omega]; simp
  have h := key bytes 0
  rw [← List.range_eq_range'] at h
  simpa [ofBytes] using h

/-- Two memories in the canonical form that read the same everywhere are the same data. -/
theorem ext_of_wf {d : Byte} {cap : Nat} {m n : Memory} (hm : wf d cap m) (hn : wf d cap n)
    (h : ∀ i, read d m i = read d n i) : m = n := by
  have low : ∀ (l : Memory) (k : Nat), (∀ e ∈ l, k < e.1) → read d l k = d := by
    intro l k hl
    induction l with
    | nil => rfl
    | cons e rest ih =>
      simp only [read]
      rw [if_neg (by have := hl e (List.mem_cons_self ..); omega)]
      exact ih fun x hx => hl x (List.mem_cons_of_mem _ hx)
  induction m generalizing n with
  | nil =>
    cases n with
    | nil => rfl
    | cons e rest =>
      have := h e.1
      simp only [read, if_true] at this
      exact absurd this.symm (hn.2 e (List.mem_cons_self ..)).2
  | cons e rest ih =>
    cases n with
    | nil =>
      have := h e.1
      simp only [read, if_true] at this
      exact absurd this (hm.2 e (List.mem_cons_self ..)).2
    | cons f rest' =>
      have he := fun x hx => List.rel_of_pairwise_cons hm.1 (a' := x) hx
      have hf := fun x hx => List.rel_of_pairwise_cons hn.1 (a' := x) hx
      have key : e.1 = f.1 := by
        rcases Nat.lt_trichotomy e.1 f.1 with hlt | heq | hlt
        · have h1 := h e.1
          rw [low (f :: rest') e.1 (by
            intro x hx
            rcases List.mem_cons.mp hx with rfl | hx
            · exact hlt
            · exact Nat.lt_trans hlt (hf x hx))] at h1
          simp only [read, if_true] at h1
          exact absurd h1 (hm.2 e (List.mem_cons_self ..)).2
        · exact heq
        · have h1 := h f.1
          rw [low (e :: rest) f.1 (by
            intro x hx
            rcases List.mem_cons.mp hx with rfl | hx
            · exact hlt
            · exact Nat.lt_trans hlt (he x hx))] at h1
          simp only [read, if_true] at h1
          exact absurd h1.symm (hn.2 f (List.mem_cons_self ..)).2
      have hv : e.2 = f.2 := by
        have h1 := h e.1
        simp only [read, if_true] at h1
        rw [if_pos key] at h1
        exact h1
      have hrest : rest = rest' := by
        refine ih ⟨hm.1.of_cons, fun c hc => hm.2 c (List.mem_cons_of_mem _ hc)⟩
          ⟨hn.1.of_cons, fun c hc => hn.2 c (List.mem_cons_of_mem _ hc)⟩ fun i => ?_
        by_cases hi : i = e.1
        · subst hi; rw [low rest _ he, low rest' _ (key ▸ hf)]
        · have h1 := h i
          simp only [read] at h1
          rwa [if_neg hi, if_neg (key ▸ hi)] at h1
      rw [hrest, show e = f from Prod.ext key hv]

end Memory

namespace DataCard

/-- A forced write at an address in range keeps the card's memory canonical. -/
theorem wf_writeForce {c : DataCard} (h : c.wf) {a : Word} (ha : inRange c.startAdr c.adrRange a = true) (v : Byte) :
    (c.writeForce a v).wf := by
  have ha := of_decide_eq_true ha
  exact Memory.wf_write (d := c.fill) h (by omega) v

theorem wf_write {c : DataCard} (h : c.wf) {a : Word} (ha : inRange c.startAdr c.adrRange a = true) (v : Byte) :
    (c.write a v).wf := by
  unfold DataCard.write; split
  · exact h
  · exact wf_writeForce h ha v

theorem wf_clear {c : DataCard} (h : c.wf) : c.clear.wf := by
  unfold DataCard.clear; split
  · exact h
  · exact Memory.wf_filled ..

end DataCard

end Sys2Proof.Machine
end

