-- ==== Sys2Proof/Laws/Bus.lean ====
section
/-! SUPPORT. Laws of the multiplexer: all a read and a write over the slots can do (20_memory.md R48, R49), and what they
keep. -/

namespace Sys2Proof.Machine

/-! ## What an access can do -/

/-- All a read over the slots can do: no card answers, or the first card that answers is read and only it changes
(20_memory.md R48). -/
theorem readSlots_cases {p : Params} {a : Word} {io : Bool} (l : List (Option Slot)) :
    (readSlots p a io l = none ∧ ∀ sl, some sl ∈ l → sl.answers a io = false) ∨
    ∃ pre sl post, l = pre ++ some sl :: post ∧ (∀ x, some x ∈ pre → x.answers a io = false) ∧
      sl.answers a io = true ∧
      ((∃ v c1, sl.card.read p a = .ok (v, c1) ∧
          readSlots p a io l = some (.ok (v, pre ++ some { sl with card := c1 } :: post))) ∨
       (∃ c1, sl.card.read p a = .error c1 ∧
          readSlots p a io l = some (.error (pre ++ some { sl with card := c1 } :: post)))) := by
  induction l with
  | nil => exact .inl ⟨rfl, by simp⟩
  | cons e rest ih =>
    cases e with
    | none =>
      rcases ih with ⟨h, hn⟩ | ⟨pre, sl, post, rfl, hpre, hsl, h⟩
      · exact .inl ⟨by simp [readSlots, h], by simpa using hn⟩
      · refine .inr ⟨none :: pre, sl, post, rfl, by simpa using hpre, hsl, ?_⟩
        rcases h with ⟨v, c1, hr, h⟩ | ⟨c1, hr, h⟩
        · exact .inl ⟨v, c1, hr, by simp [readSlots, h]⟩
        · exact .inr ⟨c1, hr, by simp [readSlots, h]⟩
    | some sl0 =>
      by_cases hs : sl0.answers a io = true
      · refine .inr ⟨[], sl0, rest, rfl, by simp, hs, ?_⟩
        cases hr : sl0.card.read p a with
        | ok x => exact .inl ⟨x.1, x.2, rfl, by simp [readSlots, hs, hr]⟩
        | error c1 => exact .inr ⟨c1, rfl, by simp [readSlots, hs, hr]⟩
      · have hs : sl0.answers a io = false := by simpa using hs
        rcases ih with ⟨h, hn⟩ | ⟨pre, sl, post, rfl, hpre, hsl, h⟩
        · refine .inl ⟨by simp [readSlots, hs, h], ?_⟩
          intro sl hm
          rcases List.mem_cons.mp hm with hm | hm
          · cases hm; exact hs
          · exact hn sl hm
        · refine .inr ⟨some sl0 :: pre, sl, post, rfl, ?_, hsl, ?_⟩
          · intro x hm
            rcases List.mem_cons.mp hm with hm | hm
            · cases hm; exact hs
            · exact hpre x hm
          · rcases h with ⟨v, c1, hr, h⟩ | ⟨c1, hr, h⟩
            · exact .inl ⟨v, c1, hr, by simp [readSlots, hs, h]⟩
            · exact .inr ⟨c1, hr, by simp [readSlots, hs, h]⟩

/-- A write that completes has written every card that answers and no other (20_memory.md R49). -/
theorem writeSlots_ok {force : Bool} {a : Word} {v : Byte} {io : Bool} {l l1 : List (Option Slot)}
    (h : writeSlots force a v io l = .ok l1) : List.Forall₂ (WroteSlot force a v io) l l1 := by
  induction l generalizing l1 with
  | nil => cases h; exact .nil
  | cons e rest ih =>
    cases e with
    | none =>
      simp only [writeSlots] at h
      split at h <;> cases h
      next r hr => exact .cons .empty (ih hr)
    | some sl =>
      simp only [writeSlots] at h
      split at h
      · next hs =>
        split at h
        · cases h
        · next c1 hw =>
          split at h <;> cases h
          next r hr => exact .cons (.wrote sl c1 hs hw) (ih hr)
      · next hs =>
        split at h <;> cases h
        next r hr => exact .cons (.other sl (by simpa using hs)) (ih hr)

/-- A write that stops: the cards before the failing one that answer are written, the failing card is as its call left it,
the cards after it are not touched (60_exceptions.md R265). -/
theorem writeSlots_error {force : Bool} {a : Word} {v : Byte} {io : Bool} {l l1 : List (Option Slot)}
    (h : writeSlots force a v io l = .error l1) : ∃ pre pre1 sl post c1, l = pre ++ some sl :: post ∧
      List.Forall₂ (WroteSlot force a v io) pre pre1 ∧ sl.answers a io = true ∧ sl.card.write force a v = .error c1 ∧
      l1 = pre1 ++ some { sl with card := c1 } :: post := by
  induction l generalizing l1 with
  | nil => cases h
  | cons e rest ih =>
    cases e with
    | none =>
      simp only [writeSlots] at h
      split at h <;> cases h
      next r hr =>
        obtain ⟨pre, pre1, sl, post, c1, rfl, hf, ha, hc, rfl⟩ := ih hr
        exact ⟨_, _, sl, post, c1, rfl, .cons .empty hf, ha, hc, rfl⟩
    | some sl0 =>
      simp only [writeSlots] at h
      split at h
      · next hs =>
        split at h
        · next c1 hw => cases h; exact ⟨[], [], sl0, rest, c1, rfl, .nil, hs, hw, rfl⟩
        · next c0 hw =>
          split at h <;> cases h
          next r hr =>
            obtain ⟨pre, pre1, sl, post, c1, rfl, hf, ha, hc, rfl⟩ := ih hr
            exact ⟨_, _, sl, post, c1, rfl, .cons (.wrote sl0 c0 hs hw) hf, ha, hc, rfl⟩
      · next hs =>
        split at h <;> cases h
        next r hr =>
          obtain ⟨pre, pre1, sl, post, c1, rfl, hf, ha, hc, rfl⟩ := ih hr
          exact ⟨_, _, sl, post, c1, rfl, .cons (.other sl0 (by simpa using hs)) hf, ha, hc, rfl⟩

/-! ## What one card's access keeps -/

theorem Card.read_config {p : Params} {a : Word} {c c1 : Card} {v : Byte} (h : c.read p a = .ok (v, c1)) :
    c1.config = c.config := by
  cases c with
  | data d => cases h; rfl
  | serial d =>
    simp only [Card.read] at h
    split at h <;> cases h
    next hr => exact SerialCard.config_eq_of_same (SerialCard.read_ok_sameConfig hr)
  | other d => cases h; simp only [Card.config, OtherCard.react]; split <;> rfl

theorem Card.write_config {force : Bool} {a : Word} {c c1 : Card} {v : Byte} (h : c.write force a v = .ok c1) :
    c1.config = c.config := by
  cases c with
  | data d =>
    cases h
    simp only [Card.config, DataCard.write, DataCard.writeForce]; split <;> (try split) <;> rfl
  | serial d =>
    simp only [Card.write] at h
    split at h <;> cases h
    next hw => exact SerialCard.config_eq_of_same (SerialCard.write_sameConfig (.inl hw))
  | other d => cases h; simp only [Card.config, OtherCard.react]; split <;> rfl

/-- Which accesses a card answers is part of its configuration. -/
theorem Card.answers_of_config {c c1 : Card} (h : c1.config = c.config) (a : Word) (io : Bool) :
    c1.answers a io = c.answers a io := by
  have hc : ∀ d : Card, d.config.answers a io = d.answers a io := fun d => by cases d <;> rfl
  rw [← hc c1, h, hc c]

theorem Card.read_romView {p : Params} {a : Word} {c c1 : Card} {v : Byte} (h : c.read p a = .ok (v, c1)) :
    c1.romView = c.romView := by
  cases c with
  | data d => cases h; rfl
  | serial d =>
    have hc := Card.read_config h
    simp only [Card.read] at h
    split at h <;> cases h
    exact hc
  | other d => have hc := Card.read_config h; cases h; exact hc

/-- A CPU write leaves a ROM card as it is (20_memory.md R46). -/
theorem Card.write_romView {a : Word} {c c1 : Card} {v : Byte} (h : c.write false a v = .ok c1) :
    c1.romView = c.romView := by
  cases c with
  | data d =>
    cases h
    by_cases hl : d.writeLocked = true
    · simp [Card.romView, DataCard.write, hl]
    · simp [Card.romView, DataCard.write, DataCard.writeForce, hl]
  | serial d =>
    have hc := Card.write_config h
    simp only [Card.write] at h
    split at h <;> cases h
    exact hc
  | other d => have hc := Card.write_config h; cases h; exact hc

theorem Card.read_legal {p : Params} {a : Word} {c c1 : Card} {v : Byte} (hl : c.legal) (h : c.read p a = .ok (v, c1)) :
    c1.legal := by
  cases c with
  | data d => cases h; exact hl
  | serial d =>
    simp only [Card.read] at h
    split at h <;> cases h
    next hr => exact SerialCard.read_legal hl hr
  | other d => cases h; trivial

theorem Card.write_legal {force : Bool} {a : Word} {io : Bool} {c c1 : Card} {v : Byte} (hl : c.legal)
    (ha : c.answers a io = true) (h : c.write force a v = .ok c1) : c1.legal := by
  cases c with
  | data d =>
    cases h
    have hr : Machine.inRange d.startAdr d.adrRange a = true := by
      simp only [Card.answers, Card.inRange, Bool.and_eq_true] at ha; exact ha.1
    simp only [Card.legal]
    split
    · exact DataCard.wf_writeForce hl hr v
    · exact DataCard.wf_write hl hr v
  | serial d =>
    simp only [Card.write] at h
    split at h <;> cases h
    next hw => exact SerialCard.write_legal hl hw
  | other d => cases h; trivial

theorem Card.read_healthy {c : Card} (hh : c.healthy) (p : Params) (a : Word) :
    ∃ v c1, c.read p a = .ok (v, c1) ∧ c1.healthy := by
  cases c with
  | data d => exact ⟨_, _, rfl, trivial⟩
  | serial d =>
    obtain ⟨v, c1, h, h1⟩ := SerialCard.read_healthy hh p a
    exact ⟨v, .serial c1, by simp [Card.read, h], h1⟩
  | other d => exact ⟨_, _, rfl, trivial⟩

theorem Card.write_healthy {c : Card} (hh : c.healthy) (force : Bool) (a : Word) (v : Byte) :
    ∃ c1, c.write force a v = .ok c1 ∧ c1.healthy := by
  cases c with
  | data d => exact ⟨_, rfl, trivial⟩
  | serial d =>
    obtain ⟨c1, h, h1⟩ := SerialCard.write_healthy hh a v
    exact ⟨.serial c1, by simp [Card.write, h], h1⟩
  | other d => exact ⟨_, rfl, trivial⟩

/-- Only a serial card whose endpoint fails stops a read, and it keeps its configuration (60_exceptions.md R265). -/
theorem Card.read_error {p : Params} {a : Word} {c c1 : Card} (h : c.read p a = .error c1) :
    ∃ d d1, c = .serial d ∧ ¬ d.healthy ∧ c1 = .serial d1 ∧ c1.config = c.config := by
  cases c with
  | data d => cases h
  | serial d =>
    have hu : ¬ d.healthy := fun hh => by
      obtain ⟨v, c2, e, _⟩ := Card.read_healthy (c := .serial d) hh p a
      rw [h] at e; cases e
    simp only [Card.read] at h
    split at h <;> cases h
    next d1 hr => exact ⟨d, d1, rfl, hu, rfl, SerialCard.config_eq_of_same (SerialCard.read_error_sameConfig hr)⟩
  | other d => cases h

/-- Only a serial card whose endpoint fails stops a write, and it keeps its configuration (60_exceptions.md R265). -/
theorem Card.write_error {force : Bool} {a : Word} {v : Byte} {c c1 : Card} (h : c.write force a v = .error c1) :
    ∃ d d1, c = .serial d ∧ ¬ d.healthy ∧ c1 = .serial d1 ∧ c1.config = c.config := by
  cases c with
  | data d => cases h
  | serial d =>
    have hu : ¬ d.healthy := fun hh => by
      obtain ⟨c2, e, _⟩ := Card.write_healthy (c := .serial d) hh force a v
      rw [h] at e; cases e
    simp only [Card.write] at h
    split at h <;> cases h
    next d1 hw => exact ⟨d, d1, rfl, hu, rfl, SerialCard.config_eq_of_same (SerialCard.write_sameConfig (.inr hw))⟩
  | other d => cases h

/-! ## Peeking -/

theorem peekSlots_append (a : Word) (io : Bool) (pre post : List (Option Slot))
    (h : ∀ x, some x ∈ pre → x.answers a io = false) : peekSlots a io (pre ++ post) = peekSlots a io post := by
  induction pre with
  | nil => rfl
  | cons e rest ih =>
    have hr := ih fun x hx => h x (List.mem_cons_of_mem _ hx)
    cases e with
    | none => exact hr
    | some sl =>
      have hs := h sl (List.mem_cons_self ..)
      simp only [List.cons_append, peekSlots, hs]
      exact hr

/-- Where no device answers, a bus read gives the byte `peek` shows and changes nothing (20_memory.md R48, R58). -/
theorem readSlots_of_peek {p : Params} {a : Word} {io : Bool} {l : List (Option Slot)} {v : Byte}
    (h : peekSlots a io l = some v) :
    (readSlots p a io l = none ∧ v = badU8) ∨ readSlots p a io l = some (.ok (v, l)) := by
  induction l with
  | nil => cases h; exact .inl ⟨rfl, rfl⟩
  | cons e rest ih =>
    cases e with
    | none =>
      rcases ih h with ⟨h1, h2⟩ | h1
      · exact .inl ⟨by simp [readSlots, h1], h2⟩
      · exact .inr (by simp [readSlots, h1])
    | some sl =>
      simp only [peekSlots] at h
      split at h
      · next hs =>
        split at h <;> cases h
        next c hc =>
          refine .inr ?_
          obtain ⟨card, ac⟩ := sl
          simp only at hc; subst hc
          simp [readSlots, hs, Card.read]
      · next hs =>
        rcases ih h with ⟨h1, h2⟩ | h1
        · exact .inl ⟨by simp [readSlots, hs, h1], h2⟩
        · exact .inr (by simp [readSlots, hs, h1])

/-- A view of cards that a CPU write of one card does not change is unchanged by a write over the slots. -/
theorem wroteSlots_view {f : Card → Card} (hwrite : ∀ {a v c c1}, c.write false a v = .ok c1 → f c1 = f c)
    {a : Word} {v : Byte} {io : Bool} {l l1 : List (Option Slot)} (h : List.Forall₂ (WroteSlot false a v io) l l1) :
    mapCards f l1 = mapCards f l := by
  induction h with
  | nil => rfl
  | cons hh _ ih =>
    simp only [mapCards, List.map_cons] at ih ⊢
    rw [ih]
    cases hh with
    | empty => rfl
    | other => rfl
    | wrote sl c1 _ hc => simp [hwrite hc]

/-! ## Traces of accesses -/

/-- The slots go from the first list to the second by bus reads and CPU writes that complete; the list holds the
(address, space) of every write. -/
inductive BusTrace (p : Params) : List (Word × Bool) → List (Option Slot) → List (Option Slot) → Prop
  | refl (l) : BusTrace p [] l l
  | read {ws l l1 l2} (a : Word) (io : Bool) (v : Byte) :
      readSlots p a io l = some (.ok (v, l1)) → BusTrace p ws l1 l2 → BusTrace p ws l l2
  | write {ws l l1 l2} (a : Word) (v : Byte) (io : Bool) :
      writeSlots false a v io l = .ok l1 → BusTrace p ws l1 l2 → BusTrace p ((a, io) :: ws) l l2

theorem BusTrace.trans {p : Params} {ws vs : List (Word × Bool)} {l l1 l2 : List (Option Slot)}
    (h : BusTrace p ws l l1) (k : BusTrace p vs l1 l2) : BusTrace p (ws ++ vs) l l2 := by
  induction h with
  | refl => exact k
  | read a io v hr _ ih => exact .read a io v hr (ih k)
  | write a v io hw _ ih => exact .write a v io hw (ih k)

/-- A property of cards that reads and CPU writes keep is kept along a trace. -/
theorem BusTrace.keeps {p : Params} {P : Card → Prop}
    (hread : ∀ {a c c1 v}, P c → c.read p a = .ok (v, c1) → P c1)
    (hwrite : ∀ {a io v c c1}, P c → c.answers a io = true → c.write false a v = .ok c1 → P c1)
    {ws : List (Word × Bool)} {l l1 : List (Option Slot)} (h : BusTrace p ws l l1)
    (hl : ∀ sl, some sl ∈ l → P sl.card) : ∀ sl, some sl ∈ l1 → P sl.card := by
  induction h with
  | refl => exact hl
  | @read ws l l1 l2 a io v hr _ ih =>
    apply ih
    rcases readSlots_cases (p := p) (a := a) (io := io) l with ⟨h0, _⟩ | ⟨pre, sl, post, rfl, _, _, h0⟩
    · rw [h0] at hr; cases hr
    · rcases h0 with ⟨v', c1, hc, h0⟩ | ⟨c1, hc, h0⟩
      · rw [h0] at hr; cases hr
        intro x hx
        rcases List.mem_append.mp hx with hx | hx
        · exact hl x (List.mem_append_left _ hx)
        · rcases List.mem_cons.mp hx with hx | hx
          · cases hx; exact hread (hl sl (by simp)) hc
          · exact hl x (List.mem_append_right _ (List.mem_cons_of_mem _ hx))
      · rw [h0] at hr; cases hr
  | @write ws l l1 l2 a v io hw tr ih =>
    apply ih
    have hf := writeSlots_ok hw
    clear hw ih tr
    induction hf with
    | nil => exact hl
    | @cons e e1 r r1 hh _ ih2 =>
      have hr := ih2 fun sl hs => hl sl (List.mem_cons_of_mem _ hs)
      intro x hx
      rcases List.mem_cons.mp hx with hx | hx
      · subst hx
        cases hh with
        | other sl _ => exact hl _ (List.mem_cons_self ..)
        | wrote sl c1 ha hc => exact hwrite (hl sl (List.mem_cons_self ..)) ha hc
      · exact hr x hx

/-- A view of cards that reads and CPU writes do not change is unchanged along a trace, slot by slot. -/
theorem BusTrace.view {p : Params} {f : Card → Card}
    (hread : ∀ {a c c1 v}, c.read p a = .ok (v, c1) → f c1 = f c)
    (hwrite : ∀ {a v c c1}, c.write false a v = .ok c1 → f c1 = f c)
    {ws : List (Word × Bool)} {l l1 : List (Option Slot)} (h : BusTrace p ws l l1) : mapCards f l1 = mapCards f l := by
  induction h with
  | refl => rfl
  | @read ws l l1 l2 a io v hr _ ih =>
    rw [ih]
    rcases readSlots_cases (p := p) (a := a) (io := io) l with ⟨h0, _⟩ | ⟨pre, sl, post, rfl, _, _, h0⟩
    · rw [h0] at hr; cases hr
    · rcases h0 with ⟨v', c1, hc, h0⟩ | ⟨c1, hc, h0⟩ <;> rw [h0] at hr <;> cases hr
      simp [mapCards, hread hc]
  | @write ws l l1 l2 a v io hw tr ih =>
    rw [ih, wroteSlots_view hwrite (writeSlots_ok hw)]

theorem BusTrace.length_eq {p : Params} {ws : List (Word × Bool)} {l l1 : List (Option Slot)}
    (h : BusTrace p ws l l1) : l1.length = l.length := by
  have := congrArg List.length (h.view (f := fun c => c.config) Card.read_config Card.write_config)
  simpa [mapCards] using this

/-- The byte of a data card at `b`; none for a device. -/
def Card.peekByte (b : Word) : Card → Option Byte
  | .data d => some (d.read b)
  | .serial _ => none
  | .other _ => none

theorem peekSlots_cons (b : Word) (jo : Bool) (sl : Slot) (rest : List (Option Slot)) :
    peekSlots b jo (some sl :: rest) = if sl.answers b jo then sl.card.peekByte b else peekSlots b jo rest := by
  obtain ⟨card, ac⟩ := sl
  cases card <;> rfl

theorem Card.read_peekByte {p : Params} {a b : Word} {v : Byte} {c c1 : Card} (h : c.read p a = .ok (v, c1)) :
    c1.peekByte b = c.peekByte b := by
  cases c with
  | data d => cases h; rfl
  | serial d => simp only [Card.read] at h; split at h <;> cases h; rfl
  | other d => cases h; rfl

/-- One card: a write at another address leaves the byte of a data card as it is. -/
theorem Card.write_peekByte {a b : Word} {io jo : Bool} {v : Byte} {c c1 : Card} (hne : (b, jo) ≠ (a, io))
    (ha : c.answers a io = true) (hb : c.answers b jo = true) (h : c.write false a v = .ok c1) :
    c1.peekByte b = c.peekByte b := by
  cases c with
  | data d =>
    cases h
    simp only [Card.answers, Card.isIo, Bool.and_eq_true, beq_iff_eq] at ha hb
    have hio : jo = io := hb.2.symm.trans ha.2
    have hab : b ≠ a := fun hab => hne (by rw [hab, hio])
    have hra := of_decide_eq_true ha.1
    have hrb := of_decide_eq_true hb.1
    simp only [if_neg Bool.false_ne_true, Card.peekByte, Option.some.injEq]
    unfold DataCard.write
    split
    · rfl
    · simp only [DataCard.read, DataCard.writeForce]
      rw [Memory.read_write_ne]
      intro he
      exact hab (BitVec.eq_of_toNat_eq (by omega))
  | serial d =>
    simp only [Card.write] at h
    split at h <;> cases h
    rfl
  | other d => cases h; rfl

/-- What `peek` shows where no slot before differs, and the slot that differs answers alike and shows the same. -/
theorem peekSlots_congr {b : Word} {jo : Bool} {sl : Slot} {c1 : Card} (pre post : List (Option Slot))
    (hc : c1.config = sl.card.config) (hp : c1.peekByte b = sl.card.peekByte b) :
    peekSlots b jo (pre ++ some { sl with card := c1 } :: post) = peekSlots b jo (pre ++ some sl :: post) := by
  induction pre with
  | nil =>
    have ha : ({ sl with card := c1 } : Slot).answers b jo = sl.answers b jo := Card.answers_of_config hc b jo
    simp only [List.nil_append, peekSlots_cons, ha, hp]
  | cons e rest ih =>
    cases e with
    | none => exact ih
    | some x => simp only [List.cons_append, peekSlots_cons, ih]

/-- A CPU write over the first slots leaves what `peek` shows at any other address, where the remaining slots do. -/
theorem wroteSlots_peek {a b : Word} {v : Byte} {io jo : Bool} (hne : (b, jo) ≠ (a, io)) {l l1 r r1 : List (Option Slot)}
    (h : List.Forall₂ (WroteSlot false a v io) l l1) (hr : peekSlots b jo r1 = peekSlots b jo r) :
    peekSlots b jo (l1 ++ r1) = peekSlots b jo (l ++ r) := by
  induction h with
  | nil => exact hr
  | cons hh _ ih =>
    cases hh with
    | empty => exact ih
    | other sl _ => simp only [List.cons_append, peekSlots_cons, ih]
    | wrote sl c1 ha hc =>
      have hans : ({ sl with card := c1 } : Slot).answers b jo = sl.answers b jo :=
        Card.answers_of_config (Card.write_config hc) b jo
      simp only [List.cons_append, peekSlots_cons, hans, ih]
      split
      · next hs => exact Card.write_peekByte hne ha hs hc
      · rfl

/-- Along a trace, a byte keeps what `peek` shows unless its address is written. -/
theorem BusTrace.peek {p : Params} {ws : List (Word × Bool)} {l l1 : List (Option Slot)} (h : BusTrace p ws l l1)
    {b : Word} {jo : Bool} (hb : (b, jo) ∉ ws) : peekSlots b jo l1 = peekSlots b jo l := by
  induction h with
  | refl => rfl
  | @read ws l l1 l2 a io v hr _ ih =>
    rw [ih hb]
    rcases readSlots_cases (p := p) (a := a) (io := io) l with ⟨h0, _⟩ | ⟨pre, sl, post, rfl, _, _, h0⟩
    · rw [h0] at hr; cases hr
    · rcases h0 with ⟨v', c1, hc, h0⟩ | ⟨c1, hc, h0⟩ <;> rw [h0] at hr <;> cases hr
      exact peekSlots_congr pre post (Card.read_config hc) (Card.read_peekByte hc)
  | @write ws l l1 l2 a v io hw tr ih =>
    rw [ih (fun hm => hb (List.mem_cons_of_mem _ hm))]
    simpa using wroteSlots_peek (fun he => hb (he ▸ List.mem_cons_self ..)) (writeSlots_ok hw) (r := []) rfl

/-! ## Accesses that stop -/

theorem Card.romView_of_serial {d d1 : SerialCard} (h : (Card.serial d1).config = (Card.serial d).config) :
    (Card.serial d1).romView = (Card.serial d).romView := h

/-- What a read that stops keeps: the configuration, every ROM, and every byte `peek` shows. -/
theorem readSlots_error {p : Params} {a : Word} {io : Bool} {l l1 : List (Option Slot)}
    (h : readSlots p a io l = some (.error l1)) :
    (∃ sl c, some sl ∈ l ∧ sl.answers a io = true ∧ sl.card = .serial c ∧ ¬ c.healthy) ∧
      mapCards Card.config l1 = mapCards Card.config l ∧ mapCards Card.romView l1 = mapCards Card.romView l ∧
      ∀ b jo, peekSlots b jo l1 = peekSlots b jo l := by
  rcases readSlots_cases (p := p) (a := a) (io := io) l with ⟨h0, _⟩ | ⟨pre, sl, post, rfl, _, hs, h0⟩
  · rw [h0] at h; cases h
  · rcases h0 with ⟨v, c1, _, h0⟩ | ⟨c1, hc, h0⟩ <;> rw [h0] at h <;> cases h
    obtain ⟨d, d1, e, hu, e1, hcfg⟩ := Card.read_error hc
    refine ⟨⟨sl, d, by simp, hs, e, hu⟩, by simp [mapCards, hcfg], ?_, fun b jo => ?_⟩
    · rw [e, e1] at hcfg
      simp [mapCards, e, e1, Card.romView_of_serial hcfg]
    · exact peekSlots_congr pre post hcfg (by rw [e, e1]; rfl)

/-- What a CPU write that stops keeps: the configuration, every ROM, and every byte `peek` shows at another address. -/
theorem writeSlots_error_keeps {a : Word} {v : Byte} {io : Bool} {l l1 : List (Option Slot)}
    (h : writeSlots false a v io l = .error l1) :
    (∃ sl c, some sl ∈ l ∧ sl.answers a io = true ∧ sl.card = .serial c ∧ ¬ c.healthy) ∧
      mapCards Card.config l1 = mapCards Card.config l ∧ mapCards Card.romView l1 = mapCards Card.romView l ∧
      ∀ b jo, (b, jo) ≠ (a, io) → peekSlots b jo l1 = peekSlots b jo l := by
  obtain ⟨pre, pre1, sl, post, c1, rfl, hf, hs, hc, rfl⟩ := writeSlots_error h
  obtain ⟨d, d1, e, hu, e1, hcfg⟩ := Card.write_error hc
  have h1 := wroteSlots_view (f := Card.config) Card.write_config hf
  have h2 := wroteSlots_view (f := Card.romView) Card.write_romView hf
  simp only [mapCards] at h1 h2
  refine ⟨⟨sl, d, by simp, hs, e, hu⟩, by simp [mapCards, hcfg, h1], ?_, fun b jo hne => ?_⟩
  · rw [e, e1] at hcfg
    simp [mapCards, e, e1, Card.romView_of_serial hcfg, h2]
  · exact wroteSlots_peek hne hf (peekSlots_congr [] post hcfg (by rw [e, e1]; rfl))

/-! ## Reading after writing -/

/-- A write, forced or not, leaves which RAM answers an address as it is (20_memory.md R41). -/
theorem ramSlots_wrote {force : Bool} {a : Word} {v : Byte} {io : Bool} {l l1 : List (Option Slot)}
    (h : List.Forall₂ (WroteSlot force a v io) l l1) (b : Word) (jo : Bool) : ramSlots b jo l1 = ramSlots b jo l := by
  induction h with
  | nil => rfl
  | cons hh _ ih =>
    cases hh with
    | empty => exact ih
    | other sl _ => simp only [ramSlots, ih]
    | wrote sl c1 _ hw =>
      obtain ⟨card, al⟩ := sl
      have ha : ({ card := c1, allowConflict := al } : Slot).answers b jo =
          ({ card := card, allowConflict := al } : Slot).answers b jo := Card.answers_of_config (Card.write_config hw) b jo
      simp only [ramSlots, ha, ih]
      split
      · cases card with
        | data c =>
          cases hw
          simp only [DataCard.write, DataCard.writeForce]
          split <;> (try split) <;> rfl
        | serial c => simp only [Card.write] at hw; split at hw <;> cases hw; rfl
        | other c => cases hw; rfl
      · rfl

/-- Where RAM answers first, the byte written is the byte `peek` shows (20_memory.md R46). -/
theorem peekSlots_wrote {force : Bool} {a : Word} {v : Byte} {io : Bool} {l l1 : List (Option Slot)}
    (h : List.Forall₂ (WroteSlot force a v io) l l1) (hr : ramSlots a io l = true) : peekSlots a io l1 = some v := by
  induction h with
  | nil => cases hr
  | cons hh _ ih =>
    cases hh with
    | empty => exact ih hr
    | other sl hs => simp only [ramSlots, hs, peekSlots] at hr ⊢; exact ih hr
    | wrote sl c1 hs hw =>
      obtain ⟨card, al⟩ := sl
      simp only [ramSlots, hs, if_true] at hr
      have ha : ({ card := c1, allowConflict := al } : Slot).answers a io = true := by
        rw [← hs]; exact Card.answers_of_config (Card.write_config hw) a io
      simp only [peekSlots, ha, if_true]
      cases card with
      | data c =>
        cases hw
        have hu : c.writeLocked = false := by simpa using hr
        cases force <;> simp [DataCard.write, DataCard.writeForce, DataCard.read, hu]
      | serial c => cases hr
      | other c => cases hr

/-! ## Completion -/

/-- With no endpoint that fails, a read completes and no endpoint fails after it (60_exceptions.md R265). -/
theorem readSlots_healthy {p : Params} {a : Word} {io : Bool} {l : List (Option Slot)}
    (hl : ∀ sl, some sl ∈ l → sl.card.healthy) :
    readSlots p a io l = none ∨
      ∃ v l1, readSlots p a io l = some (.ok (v, l1)) ∧ ∀ sl, some sl ∈ l1 → sl.card.healthy := by
  rcases readSlots_cases (p := p) (a := a) (io := io) l with ⟨h0, _⟩ | ⟨pre, sl, post, rfl, _, _, h0⟩
  · exact .inl h0
  · obtain ⟨v, c1, hr, h1⟩ := Card.read_healthy (hl sl (by simp)) p a
    rcases h0 with ⟨v', c1', hc, h0⟩ | ⟨c1', hc, h0⟩ <;> rw [hr] at hc <;> cases hc
    refine .inr ⟨_, _, h0, fun x hx => ?_⟩
    rcases List.mem_append.mp hx with hx | hx
    · exact hl x (List.mem_append_left _ hx)
    · rcases List.mem_cons.mp hx with hx | hx
      · cases hx; exact h1
      · exact hl x (List.mem_append_right _ (List.mem_cons_of_mem _ hx))

/-- With no endpoint that fails, a write completes and no endpoint fails after it (60_exceptions.md R265). -/
theorem writeSlots_healthy (force : Bool) (a : Word) (v : Byte) (io : Bool) {l : List (Option Slot)}
    (hl : ∀ sl, some sl ∈ l → sl.card.healthy) :
    ∃ l1, writeSlots force a v io l = .ok l1 ∧ ∀ sl, some sl ∈ l1 → sl.card.healthy := by
  induction l with
  | nil => exact ⟨[], rfl, hl⟩
  | cons e rest ih =>
    obtain ⟨r1, hr, hh⟩ := ih fun sl hs => hl sl (List.mem_cons_of_mem _ hs)
    cases e with
    | none =>
      refine ⟨none :: r1, by simp [writeSlots, hr], fun x hx => ?_⟩
      rcases List.mem_cons.mp hx with hx | hx
      · cases hx
      · exact hh x hx
    | some sl =>
      by_cases hs : sl.answers a io = true
      · obtain ⟨c1, hw, h1⟩ := Card.write_healthy (hl sl (List.mem_cons_self ..)) force a v
        refine ⟨some { sl with card := c1 } :: r1, by simp [writeSlots, hs, hw, hr], fun x hx => ?_⟩
        rcases List.mem_cons.mp hx with hx | hx
        · cases hx; exact h1
        · exact hh x hx
      · refine ⟨some sl :: r1, by simp [writeSlots, hs, hr], fun x hx => ?_⟩
        rcases List.mem_cons.mp hx with hx | hx
        · cases hx; exact hl sl (List.mem_cons_self ..)
        · exact hh x hx

end Sys2Proof.Machine
end

