-- ==== Sys2Proof/Laws/State.lean ====
section
/-! SUPPORT. One lemma for each field of State under each update of the register file, and the same for a change of the
cards. -/

namespace Sys2Proof.Machine.State

variable (s : State)

@[simp] theorem set16_halted (x : Reg16) (v : Word) : (s.set16 x v).halted = s.halted := rfl
@[simp] theorem set16_interruptsEnabled (x : Reg16) (v : Word) : (s.set16 x v).interruptsEnabled = s.interruptsEnabled := rfl
@[simp] theorem set16_justBooted (x : Reg16) (v : Word) : (s.set16 x v).justBooted = s.justBooted := rfl
@[simp] theorem set16_irqQueue (x : Reg16) (v : Word) : (s.set16 x v).irqQueue = s.irqQueue := rfl
@[simp] theorem set16_slots (x : Reg16) (v : Word) : (s.set16 x v).slots = s.slots := rfl
@[simp] theorem set16_sink (x : Reg16) (v : Word) : (s.set16 x v).sink = s.sink := rfl
@[simp] theorem set16_params (x : Reg16) (v : Word) : (s.set16 x v).params = s.params := rfl

@[simp] theorem set8_halted (x : Reg8) (v : Byte) : (s.set8 x v).halted = s.halted := rfl
@[simp] theorem set8_interruptsEnabled (x : Reg8) (v : Byte) : (s.set8 x v).interruptsEnabled = s.interruptsEnabled := rfl
@[simp] theorem set8_justBooted (x : Reg8) (v : Byte) : (s.set8 x v).justBooted = s.justBooted := rfl
@[simp] theorem set8_irqQueue (x : Reg8) (v : Byte) : (s.set8 x v).irqQueue = s.irqQueue := rfl
@[simp] theorem set8_slots (x : Reg8) (v : Byte) : (s.set8 x v).slots = s.slots := rfl
@[simp] theorem set8_sink (x : Reg8) (v : Byte) : (s.set8 x v).sink = s.sink := rfl
@[simp] theorem set8_params (x : Reg8) (v : Byte) : (s.set8 x v).params = s.params := rfl

@[simp] theorem setF_halted (v : Byte) : (s.setF v).halted = s.halted := rfl
@[simp] theorem setF_interruptsEnabled (v : Byte) : (s.setF v).interruptsEnabled = s.interruptsEnabled := rfl
@[simp] theorem setF_justBooted (v : Byte) : (s.setF v).justBooted = s.justBooted := rfl
@[simp] theorem setF_irqQueue (v : Byte) : (s.setF v).irqQueue = s.irqQueue := rfl
@[simp] theorem setF_slots (v : Byte) : (s.setF v).slots = s.slots := rfl
@[simp] theorem setF_sink (v : Byte) : (s.setF v).sink = s.sink := rfl
@[simp] theorem setF_params (v : Byte) : (s.setF v).params = s.params := rfl

@[simp] theorem setFlag_halted (x : Flag) (b : Bool) : (s.setFlag x b).halted = s.halted := rfl
@[simp] theorem setFlag_interruptsEnabled (x : Flag) (b : Bool) : (s.setFlag x b).interruptsEnabled = s.interruptsEnabled := rfl
@[simp] theorem setFlag_justBooted (x : Flag) (b : Bool) : (s.setFlag x b).justBooted = s.justBooted := rfl
@[simp] theorem setFlag_irqQueue (x : Flag) (b : Bool) : (s.setFlag x b).irqQueue = s.irqQueue := rfl
@[simp] theorem setFlag_slots (x : Flag) (b : Bool) : (s.setFlag x b).slots = s.slots := rfl
@[simp] theorem setFlag_sink (x : Flag) (b : Bool) : (s.setFlag x b).sink = s.sink := rfl
@[simp] theorem setFlag_params (x : Flag) (b : Bool) : (s.setFlag x b).params = s.params := rfl

@[simp] theorem setAcc_halted (v : Byte) : (s.setAcc v).halted = s.halted := rfl
@[simp] theorem setAcc_interruptsEnabled (v : Byte) : (s.setAcc v).interruptsEnabled = s.interruptsEnabled := rfl
@[simp] theorem setAcc_justBooted (v : Byte) : (s.setAcc v).justBooted = s.justBooted := rfl
@[simp] theorem setAcc_irqQueue (v : Byte) : (s.setAcc v).irqQueue = s.irqQueue := rfl
@[simp] theorem setAcc_slots (v : Byte) : (s.setAcc v).slots = s.slots := rfl
@[simp] theorem setAcc_sink (v : Byte) : (s.setAcc v).sink = s.sink := rfl
@[simp] theorem setAcc_params (v : Byte) : (s.setAcc v).params = s.params := rfl

@[simp] theorem setZsp_halted (v : Byte) : (s.setZsp v).halted = s.halted := rfl
@[simp] theorem setZsp_interruptsEnabled (v : Byte) : (s.setZsp v).interruptsEnabled = s.interruptsEnabled := rfl
@[simp] theorem setZsp_justBooted (v : Byte) : (s.setZsp v).justBooted = s.justBooted := rfl
@[simp] theorem setZsp_irqQueue (v : Byte) : (s.setZsp v).irqQueue = s.irqQueue := rfl
@[simp] theorem setZsp_slots (v : Byte) : (s.setZsp v).slots = s.slots := rfl
@[simp] theorem setZsp_sink (v : Byte) : (s.setZsp v).sink = s.sink := rfl
@[simp] theorem setZsp_params (v : Byte) : (s.setZsp v).params = s.params := rfl

/-! ## A change of the cards leaves the register file alone -/

variable (l : List (Option Slot))

@[simp] theorem withSlots_get16 (x : Reg16) : ({ s with slots := l } : State).get16 x = s.get16 x := rfl
@[simp] theorem withSlots_get8 (x : Reg8) : ({ s with slots := l } : State).get8 x = s.get8 x := rfl
@[simp] theorem withSlots_getF : ({ s with slots := l } : State).getF = s.getF := rfl
@[simp] theorem withSlots_flag (x : Flag) : ({ s with slots := l } : State).flag x = s.flag x := rfl
@[simp] theorem withSlots_acc : ({ s with slots := l } : State).acc = s.acc := rfl
@[simp] theorem withSlots_peek (io : Bool) (a : Word) : ({ s with slots := l } : State).peek io a = peekSlots a io l := rfl

end Sys2Proof.Machine.State
end

