-- ==== Sys2Proof/Laws/Regs.lean ====
section
/-! SUPPORT. Laws of the register file and of the flags: what each update does to each reading (10_state.md R11 to R16). -/

namespace Sys2Proof.Machine.State

variable (s : State)

/-! ## 8-bit halves -/

@[simp] theorem get8_set8_same (x : Reg8) (v : Byte) : (s.set8 x v).get8 x = v := by
  cases x <;> simp [get8, set8, Regs.get8, Regs.set8]

theorem get8_set8_ne {x y : Reg8} (v : Byte) (h : y ≠ x) : (s.set8 x v).get8 y = s.get8 y := by
  cases x <;> cases y <;> first | exact absurd rfl h | simp [get8, set8, Regs.get8, Regs.set8]

@[simp] theorem getF_set8 (x : Reg8) (v : Byte) : (s.set8 x v).getF = s.getF := by
  cases x <;> simp [getF, set8, Regs.getF, Regs.set8]

@[simp] theorem flag_set8 (x : Reg8) (v : Byte) (f : Flag) : (s.set8 x v).flag f = s.flag f := by simp [flag]

@[simp] theorem get16_sp_set8 (x : Reg8) (v : Byte) : (s.set8 x v).get16 .sp = s.get16 .sp := by cases x <;> rfl
@[simp] theorem get16_pc_set8 (x : Reg8) (v : Byte) : (s.set8 x v).get16 .pc = s.get16 .pc := by cases x <;> rfl

@[simp] theorem acc_set8_a (v : Byte) : (s.set8 .a v).acc = v := get8_set8_same s .a v
@[simp] theorem acc_setAcc (v : Byte) : (s.setAcc v).acc = v := get8_set8_same s .a v
@[simp] theorem get8_a_setAcc (v : Byte) : (s.setAcc v).get8 .a = v := get8_set8_same s .a v
theorem get8_setAcc_ne {y : Reg8} (v : Byte) (h : y ≠ .a) : (s.setAcc v).get8 y = s.get8 y := get8_set8_ne s v h
@[simp] theorem getF_setAcc (v : Byte) : (s.setAcc v).getF = s.getF := getF_set8 s .a v
@[simp] theorem flag_setAcc (v : Byte) (f : Flag) : (s.setAcc v).flag f = s.flag f := flag_set8 s .a v f
@[simp] theorem get16_sp_setAcc (v : Byte) : (s.setAcc v).get16 .sp = s.get16 .sp := rfl
@[simp] theorem get16_pc_setAcc (v : Byte) : (s.setAcc v).get16 .pc = s.get16 .pc := rfl
@[simp] theorem cond_setAcc (v : Byte) (cc : Cond) : (s.setAcc v).cond cc = s.cond cc := by cases cc <;> simp [cond]

/-! ## Cells -/

theorem get16_set16_same {x : Reg16} (v : Word) (h : x ≠ .af) : (s.set16 x v).get16 x = v := by
  cases x <;> first | exact absurd rfl h | rfl

@[simp] theorem get16_set16_bc (v : Word) : (s.set16 .bc v).get16 .bc = v := rfl
@[simp] theorem get16_set16_de (v : Word) : (s.set16 .de v).get16 .de = v := rfl
@[simp] theorem get16_set16_hl (v : Word) : (s.set16 .hl v).get16 .hl = v := rfl
@[simp] theorem get16_set16_sp (v : Word) : (s.set16 .sp v).get16 .sp = v := rfl
@[simp] theorem get16_set16_pc (v : Word) : (s.set16 .pc v).get16 .pc = v := rfl
@[simp] theorem get16_set16_af (v : Word) : (s.set16 .af v).get16 .af = pair (hi8 v) (maskF (lo8 v)) := rfl

theorem get16_set16_ne {x y : Reg16} (v : Word) (h : y ≠ x) : (s.set16 x v).get16 y = s.get16 y := by
  cases x <;> cases y <;> first | exact absurd rfl h | rfl

@[simp] theorem get8_set16_sp (v : Word) (y : Reg8) : (s.set16 .sp v).get8 y = s.get8 y := by cases y <;> rfl
@[simp] theorem get8_set16_pc (v : Word) (y : Reg8) : (s.set16 .pc v).get8 y = s.get8 y := by cases y <;> rfl

theorem getF_set16 {x : Reg16} (v : Word) (h : x ≠ .af) : (s.set16 x v).getF = s.getF := by
  cases x <;> first | exact absurd rfl h | rfl

@[simp] theorem getF_set16_bc (v : Word) : (s.set16 .bc v).getF = s.getF := rfl
@[simp] theorem getF_set16_de (v : Word) : (s.set16 .de v).getF = s.getF := rfl
@[simp] theorem getF_set16_hl (v : Word) : (s.set16 .hl v).getF = s.getF := rfl
@[simp] theorem getF_set16_sp (v : Word) : (s.set16 .sp v).getF = s.getF := rfl
@[simp] theorem getF_set16_pc (v : Word) : (s.set16 .pc v).getF = s.getF := rfl
@[simp] theorem getF_set16_af (v : Word) : (s.set16 .af v).getF = maskF (lo8 v) := by
  simp [getF, Regs.getF, set16, Regs.set16]

theorem flag_set16 {x : Reg16} (v : Word) (h : x ≠ .af) (f : Flag) : (s.set16 x v).flag f = s.flag f := by
  simp [flag, getF_set16 s v h]

/-- A write of a pair is seen through both halves, and the halves of the other cells stay (10_state.md R11). -/
theorem get8_set16_bc (v : Word) (y : Reg8) :
    (s.set16 .bc v).get8 y = match y with | .b => hi8 v | .c => lo8 v | _ => s.get8 y := by cases y <;> rfl

theorem get8_set16_de (v : Word) (y : Reg8) :
    (s.set16 .de v).get8 y = match y with | .d => hi8 v | .e => lo8 v | _ => s.get8 y := by cases y <;> rfl

theorem get8_set16_hl (v : Word) (y : Reg8) :
    (s.set16 .hl v).get8 y = match y with | .h => hi8 v | .l => lo8 v | _ => s.get8 y := by cases y <;> rfl

theorem get8_set16_af (v : Word) (y : Reg8) :
    (s.set16 .af v).get8 y = match y with | .a => hi8 v | _ => s.get8 y := by
  cases y <;> simp [get8, set16, Regs.get8, Regs.set16]

/-! ## Flags -/

@[simp] theorem get8_setFlag (x : Flag) (b : Bool) (y : Reg8) : (s.setFlag x b).get8 y = s.get8 y := by
  cases y <;> simp [get8, setFlag, Regs.get8]

@[simp] theorem acc_setFlag (x : Flag) (b : Bool) : (s.setFlag x b).acc = s.acc := get8_setFlag s x b .a

theorem get16_setFlag {y : Reg16} (x : Flag) (b : Bool) (h : y ≠ .af) : (s.setFlag x b).get16 y = s.get16 y := by
  cases y <;> first | exact absurd rfl h | rfl

@[simp] theorem get16_bc_setFlag (x : Flag) (b : Bool) : (s.setFlag x b).get16 .bc = s.get16 .bc := rfl
@[simp] theorem get16_de_setFlag (x : Flag) (b : Bool) : (s.setFlag x b).get16 .de = s.get16 .de := rfl
@[simp] theorem get16_hl_setFlag (x : Flag) (b : Bool) : (s.setFlag x b).get16 .hl = s.get16 .hl := rfl
@[simp] theorem get16_sp_setFlag (x : Flag) (b : Bool) : (s.setFlag x b).get16 .sp = s.get16 .sp := rfl
@[simp] theorem get16_pc_setFlag (x : Flag) (b : Bool) : (s.setFlag x b).get16 .pc = s.get16 .pc := rfl

@[simp] theorem getF_setFlag (x : Flag) (b : Bool) : (s.setFlag x b).getF = setBit s.getF x.bit b := by
  simp [getF, setFlag, Regs.getF]

theorem flag_bit_lt (x : Flag) : x.bit < 8 := by cases x <;> decide

theorem flag_setFlag (x y : Flag) (b : Bool) : (s.setFlag x b).flag y = if y = x then b else s.flag y := by
  simp only [flag, getF_setFlag, getLsbD_setBit _ _ _ _ (flag_bit_lt x)]
  cases x <;> cases y <;> rfl

@[simp] theorem flag_setFlag_same (x : Flag) (b : Bool) : (s.setFlag x b).flag x = b := by simp [flag_setFlag]

theorem flag_setFlag_ne {x y : Flag} (b : Bool) (h : y ≠ x) : (s.setFlag x b).flag y = s.flag y := by
  simp [flag_setFlag, h]

/-- The constant bits of `F` are no flag positions (10_state.md R15). -/
@[simp] theorem constBits_setFlag (x : Flag) (b : Bool) : (s.setFlag x b).getF &&& 0x2A = s.getF &&& 0x2A := by
  rw [getF_setFlag]
  apply BitVec.eq_of_getLsbD_eq
  intro i hi
  simp only [BitVec.getLsbD_and, getLsbD_setBit _ _ _ _ (flag_bit_lt x)]
  split
  · next h => subst h; cases x <;> simp [Flag.bit]
  · rfl

@[simp] theorem get8_setZsp (v : Byte) (y : Reg8) : (s.setZsp v).get8 y = s.get8 y := by simp [setZsp]
@[simp] theorem acc_setZsp (v : Byte) : (s.setZsp v).acc = s.acc := get8_setZsp s v .a
@[simp] theorem get16_bc_setZsp (v : Byte) : (s.setZsp v).get16 .bc = s.get16 .bc := rfl
@[simp] theorem get16_de_setZsp (v : Byte) : (s.setZsp v).get16 .de = s.get16 .de := rfl
@[simp] theorem get16_hl_setZsp (v : Byte) : (s.setZsp v).get16 .hl = s.get16 .hl := rfl
@[simp] theorem get16_sp_setZsp (v : Byte) : (s.setZsp v).get16 .sp = s.get16 .sp := rfl
@[simp] theorem get16_pc_setZsp (v : Byte) : (s.setZsp v).get16 .pc = s.get16 .pc := rfl
@[simp] theorem constBits_setZsp (v : Byte) : (s.setZsp v).getF &&& 0x2A = s.getF &&& 0x2A := by
  simp only [setZsp, constBits_setFlag]

/-- `SetZSP` sets Z, S and P of its byte and touches no other flag (10_state.md R16). -/
theorem flag_setZsp (v : Byte) (y : Flag) :
    (s.setZsp v).flag y =
      match y with | .z => v == 0 | .s => v.getLsbD 7 | .p => parity8 v | .c => s.flag .c | .ac => s.flag .ac := by
  cases y <;> simp [setZsp, flag_setFlag]

@[simp] theorem flag_z_setZsp (v : Byte) : (s.setZsp v).flag .z = (v == 0) := by simp [flag_setZsp]
@[simp] theorem flag_s_setZsp (v : Byte) : (s.setZsp v).flag .s = v.getLsbD 7 := by simp [flag_setZsp]
@[simp] theorem flag_p_setZsp (v : Byte) : (s.setZsp v).flag .p = parity8 v := by simp [flag_setZsp]
@[simp] theorem flag_c_setZsp (v : Byte) : (s.setZsp v).flag .c = s.flag .c := by simp [flag_setZsp]
@[simp] theorem flag_ac_setZsp (v : Byte) : (s.setZsp v).flag .ac = s.flag .ac := by simp [flag_setZsp]

/-- The mask forces the constant bits (10_state.md R14). -/
@[simp] theorem constBits_maskF (v : Byte) : maskF v &&& 0x2A = 0x02 := by
  simp only [maskF]
  apply BitVec.eq_of_getLsbD_eq
  intro i hi
  interval_cases i <;> simp

end Sys2Proof.Machine.State
end

