-- ==== Sys2Proof/Laws/Ops.lean ====
section
/-! SUPPORT. One lemma for each named operation that says all it can do when it completes, one that says it completes when no
endpoint fails, and one for the addresses where no device answers. -/

namespace Sys2Proof.Machine

/-! ## Sequencing -/

theorem Act.andThen_ok {α β : Type} {r : Act α} {k : α → State → Act β} {y : β} {t : State}
    (h : r.andThen k = .ok (y, t)) : ∃ x s1, r = .ok (x, s1) ∧ k x s1 = .ok (y, t) := by
  cases r with
  | ok x => exact ⟨x.1, x.2, rfl, h⟩
  | error f => cases h

theorem Act.out_next {α : Type} {r : Act α} {k : α → State → Out} {t : State} (h : r.out k = .next t) :
    ∃ x s1, r = .ok (x, s1) ∧ k x s1 = .next t := by
  cases r with
  | ok x => exact ⟨x.1, x.2, rfl, h⟩
  | error f => cases h

theorem Act.done_next {r : Act Unit} {t : State} (h : r.done = .next t) : r = .ok ((), t) := by
  obtain ⟨_, s1, h, k⟩ := Act.out_next h
  cases k; exact h

@[simp] theorem Act.andThen_of_ok {α β : Type} (x : α) (s : State) (k : α → State → Act β) :
    Act.andThen (.ok (x, s)) k = k x s := rfl

@[simp] theorem Act.out_of_ok {α : Type} (x : α) (s : State) (k : α → State → Out) : Act.out (.ok (x, s)) k = k x s := rfl

@[simp] theorem Act.done_of_ok (s : State) : Act.done (.ok ((), s)) = .next s := rfl

/-! ## What an operation that completes leaves -/

/-- From `s` to `t` only registers, CPU control bits and the operand buffer changed, and the cards by completed bus accesses
whose writes are at `ws`. -/
structure Accessed (ws : List (Word × Bool)) (s t : State) : Prop where
  params : t.params = s.params
  sink : t.sink = s.sink
  justBooted : t.justBooted = s.justBooted
  trace : BusTrace s.params ws s.slots t.slots

theorem Accessed.of_slots_eq {s t : State} (hp : t.params = s.params) (hs : t.sink = s.sink)
    (hj : t.justBooted = s.justBooted) (hl : t.slots = s.slots) : Accessed [] s t :=
  ⟨hp, hs, hj, hl ▸ .refl _⟩

theorem Accessed.refl (s : State) : Accessed [] s s := .of_slots_eq rfl rfl rfl rfl

theorem Accessed.trans {ws vs : List (Word × Bool)} {s t u : State} (h : Accessed ws s t) (k : Accessed vs t u) :
    Accessed (ws ++ vs) s u :=
  ⟨k.params.trans h.params, k.sink.trans h.sink, k.justBooted.trans h.justBooted, h.trace.trans (h.params ▸ k.trace)⟩

/-- A change outside the cards after an access. -/
theorem Accessed.then_regs {ws : List (Word × Bool)} {s t u : State} (h : Accessed ws s t) (hp : u.params = t.params)
    (hs : u.sink = t.sink) (hj : u.justBooted = t.justBooted) (hl : u.slots = t.slots) : Accessed ws s u := by
  simpa using h.trans (.of_slots_eq hp hs hj hl)

/-- A change outside the cards before an access. -/
theorem Accessed.after_regs {ws : List (Word × Bool)} {s t u : State} (h : Accessed ws t u) (hp : t.params = s.params)
    (hs : t.sink = s.sink) (hj : t.justBooted = s.justBooted) (hl : t.slots = s.slots) : Accessed ws s u :=
  (Accessed.of_slots_eq hp hs hj hl).trans h

theorem Accessed.peek {ws : List (Word × Bool)} {s t : State} (h : Accessed ws s t) {a : Word} {io : Bool}
    (ha : (a, io) ∉ ws) : t.peek io a = s.peek io a := h.trace.peek ha

theorem Accessed.busConfig {ws : List (Word × Bool)} {s t : State} (h : Accessed ws s t) : busConfig t = busConfig s :=
  h.trace.view Card.read_config Card.write_config

theorem Accessed.romContents {ws : List (Word × Bool)} {s t : State} (h : Accessed ws s t) :
    romContents t = romContents s :=
  h.trace.view Card.read_romView Card.write_romView

theorem Accessed.slotCount {ws : List (Word × Bool)} {s t : State} (h : Accessed ws s t) :
    t.slots.length = s.slots.length := h.trace.length_eq

theorem Accessed.legal {ws : List (Word × Bool)} {s t : State} (h : Accessed ws s t)
    (hl : ∀ sl, some sl ∈ s.slots → sl.card.legal) : ∀ sl, some sl ∈ t.slots → sl.card.legal :=
  h.trace.keeps Card.read_legal Card.write_legal hl

theorem onlyRegsAndCards.refl (s : State) : onlyRegsAndCards s s := rfl

theorem onlyRegsAndCards.of_regs (s : State) (r : Regs) : onlyRegsAndCards s { s with regs := r } := rfl

theorem onlyRegsAndCards.of_slots {s t : State} (h : t = { s with slots := t.slots }) : onlyRegsAndCards s t := by
  unfold onlyRegsAndCards; rw [h]

theorem onlyRegsAndCards.trans {s t u : State} (h : onlyRegsAndCards s t) (k : onlyRegsAndCards t u) :
    onlyRegsAndCards s u := by
  unfold onlyRegsAndCards at *; rw [k, h]

/-- A change of registers between or after accesses. -/
theorem Accessed.of_regs (s : State) (r : Regs) : Accessed [] s { s with regs := r } := .of_slots_eq rfl rfl rfl rfl

/-! ## One byte -/

/-- All a bus read that completes can do (20_memory.md R48). -/
theorem busRead_ok {a : Word} {io : Bool} {s t : State} {v : Byte} (h : busRead a io s = .ok (v, t)) :
    t = { s with slots := t.slots } ∧ Accessed [] s t := by
  unfold busRead at h
  split at h
  · cases h; exact ⟨rfl, .refl s⟩
  · next hr => cases h; exact ⟨rfl, rfl, rfl, rfl, .read a io _ hr (.refl _)⟩
  · cases h

/-- All a bus write of the CPU that completes can do (20_memory.md R49). -/
theorem busWrite_ok {a : Word} {io : Bool} {v : Byte} {s t : State} (h : busWrite a v io s = .ok ((), t)) :
    t = { s with slots := t.slots } ∧ Accessed [(a, io)] s t := by
  unfold busWrite busWriteWith at h
  split at h
  · next hw => cases h; exact ⟨rfl, rfl, rfl, rfl, .write a v io hw (.refl _)⟩
  · cases h

/-- Where no device answers, a bus read gives the byte `peek` shows and changes nothing (20_memory.md R48, R58). -/
theorem busRead_of_peek {a : Word} {io : Bool} {s : State} {v : Byte} (h : s.peek io a = some v) :
    busRead a io s = .ok (v, s) := by
  rcases readSlots_of_peek (p := s.params) h with ⟨h1, rfl⟩ | h1 <;> simp [busRead, h1]

theorem memRead_of_peek {a : Word} {s : State} {v : Byte} (h : s.peek false a = some v) : memRead a s = .ok (v, s) :=
  busRead_of_peek h

/-- A read completes when no endpoint fails (60_exceptions.md R265). -/
theorem busRead_healthy (a : Word) (io : Bool) {s : State} (hh : s.healthy) :
    ∃ v t, busRead a io s = .ok (v, t) ∧ t = { s with slots := t.slots } ∧ t.healthy := by
  rcases readSlots_healthy (p := s.params) (a := a) (io := io) hh with h | ⟨v, l1, h, hl⟩
  · exact ⟨badU8, s, by simp [busRead, h], rfl, hh⟩
  · exact ⟨v, { s with slots := l1 }, by simp [busRead, h], rfl, hl⟩

/-- A write completes when no endpoint fails (60_exceptions.md R265). -/
theorem busWrite_healthy (a : Word) (v : Byte) (io : Bool) {s : State} (hh : s.healthy) :
    ∃ t, busWrite a v io s = .ok ((), t) ∧ t = { s with slots := t.slots } ∧ t.healthy := by
  obtain ⟨l1, h, hl⟩ := writeSlots_healthy false a v io hh
  exact ⟨{ s with slots := l1 }, by simp [busWrite, busWriteWith, h], rfl, hl⟩

theorem memRead_ok {a : Word} {s t : State} {v : Byte} (h : memRead a s = .ok (v, t)) :
    t = { s with slots := t.slots } ∧ Accessed [] s t := busRead_ok h

theorem memWrite_ok {a : Word} {v : Byte} {s t : State} (h : memWrite a v s = .ok ((), t)) :
    t = { s with slots := t.slots } ∧ Accessed [(a, false)] s t := busWrite_ok h

/-- A bus read does not depend on the register file and leaves it alone (20_memory.md R48). -/
theorem busRead_set16_ok {a : Word} {io : Bool} {s t : State} {v : Byte} (h : busRead a io s = .ok (v, t)) (x : Reg16)
    (w : Word) : busRead a io (s.set16 x w) = .ok (v, t.set16 x w) := by
  unfold busRead at h ⊢
  rw [State.set16_slots, State.set16_params]
  split at h <;> cases h <;> rfl

/-- The same of a bus read that faults. -/
theorem busRead_set16_error {a : Word} {io : Bool} {s u : State} (h : busRead a io s = .error (.endpointIoError u))
    (x : Reg16) (w : Word) : busRead a io (s.set16 x w) = .error (.endpointIoError (u.set16 x w)) := by
  unfold busRead at h ⊢
  rw [State.set16_slots, State.set16_params]
  split at h <;> cases h
  rfl

/-! ## One byte: accesses that stop (60_exceptions.md R265) -/

/-- From `s` to `u` nothing but cards changed; the configuration, every ROM and every byte outside `ws` is as before. -/
structure Kept (ws : List (Word × Bool)) (s u : State) : Prop where
  cards : u = { s with slots := u.slots }
  config : busConfig u = busConfig s
  rom : romContents u = romContents s
  bytes : ∀ b jo, (b, jo) ∉ ws → u.peek jo b = s.peek jo b

/-- All a bus read that faults can do. -/
theorem busRead_error {a : Word} {io : Bool} {s : State} {f : Fault} (h : busRead a io s = .error f) :
    ∃ u, f = .endpointIoError u ∧ failsAt a io s u ∧ Kept [] s u := by
  have h0 := h
  unfold busRead at h
  split at h <;> cases h
  next l1 hr =>
    obtain ⟨hc, h1, h2, h3⟩ := readSlots_error hr
    exact ⟨_, rfl, ⟨.inl h0, hc⟩, rfl, h1, h2, fun b jo _ => h3 b jo⟩

/-- All a bus write of the CPU that faults can do. -/
theorem busWrite_error {a : Word} {v : Byte} {io : Bool} {s : State} {f : Fault} (h : busWrite a v io s = .error f) :
    ∃ u, f = .endpointIoError u ∧ failsAt a io s u ∧ Kept [(a, io)] s u := by
  have h0 := h
  unfold busWrite busWriteWith at h
  split at h <;> cases h
  next l1 hr =>
    obtain ⟨hc, h1, h2, h3⟩ := writeSlots_error_keeps hr
    exact ⟨_, rfl, ⟨.inr ⟨v, h0⟩, hc⟩, rfl, h1, h2, fun b jo hb => h3 b jo (by simpa using hb)⟩

/-! ## Two bytes (20_memory.md R56) -/

theorem memRead2_ok {a : Word} {s t : State} {v : Word} (h : memRead2 a s = .ok (v, t)) :
    t = { s with slots := t.slots } ∧ Accessed [] s t := by
  obtain ⟨lo, s1, h1, h⟩ := Act.andThen_ok h
  obtain ⟨hi, s2, h2, h⟩ := Act.andThen_ok h
  cases h
  obtain ⟨e1, a1⟩ := memRead_ok h1
  obtain ⟨e2, a2⟩ := memRead_ok h2
  exact ⟨by rw [e2, e1], a1.trans a2⟩

theorem memWrite2_ok {a v : Word} {s t : State} (h : memWrite2 a v s = .ok ((), t)) :
    t = { s with slots := t.slots } ∧ Accessed [(a, false), (a + 1, false)] s t := by
  obtain ⟨_, s1, h1, h2⟩ := Act.andThen_ok h
  obtain ⟨e1, a1⟩ := memWrite_ok h1
  obtain ⟨e2, a2⟩ := memWrite_ok h2
  exact ⟨by rw [e2, e1], a1.trans a2⟩

theorem memRead2_healthy (a : Word) {s : State} (hh : s.healthy) :
    ∃ v t, memRead2 a s = .ok (v, t) ∧ t = { s with slots := t.slots } ∧ t.healthy := by
  obtain ⟨lo, s1, h1, e1, hh1⟩ := busRead_healthy a false hh
  obtain ⟨hi, s2, h2, e2, hh2⟩ := busRead_healthy (a + 1) false hh1
  exact ⟨pair hi lo, s2, by simp only [memRead2, memRead, h1, h2, Act.andThen_of_ok], by rw [e2, e1], hh2⟩

theorem memWrite2_healthy (a v : Word) {s : State} (hh : s.healthy) :
    ∃ t, memWrite2 a v s = .ok ((), t) ∧ t = { s with slots := t.slots } ∧ t.healthy := by
  obtain ⟨s1, h1, e1, hh1⟩ := busWrite_healthy a (lo8 v) false hh
  obtain ⟨s2, h2, e2, hh2⟩ := busWrite_healthy (a + 1) (hi8 v) false hh1
  exact ⟨s2, by simp only [memWrite2, memWrite, h1, h2, Act.andThen_of_ok], by rw [e2, e1], hh2⟩

theorem memRead2_of_peek {a : Word} {s : State} {lo hi : Byte} (h : s.peek false a = some lo)
    (h1 : s.peek false (a + 1) = some hi) : memRead2 a s = .ok (pair hi lo, s) := by
  simp only [memRead2, memRead_of_peek h, memRead_of_peek h1, Act.andThen_of_ok]

/-! ## Ports (20_memory.md R65, 60_exceptions.md R264) -/

theorem ioRead_ok {port : Byte} {s t : State} {v : Byte} (h : ioRead port s = .ok (v, t)) :
    t = { s with slots := t.slots } ∧ Accessed [] s t := by
  unfold ioRead at h
  split at h
  · cases h
  · exact busRead_ok h

theorem ioWrite_ok {port v : Byte} {s t : State} (h : ioWrite port v s = .ok ((), t)) :
    t = { s with slots := t.slots } ∧ Accessed [(portAddr port, true)] s t := by
  unfold ioWrite at h
  split at h
  · cases h
  · exact busWrite_ok h

/-! ## Fetch (30_encoding.md R80) -/

/-- All a fetch of one byte that completes can do. -/
theorem fetch8_ok {s t : State} {b : Byte} (h : fetch8 s = .ok (b, t)) :
    (s.irqQueue = [] ∧ t = { s with regs := { s.regs with pc := s.regs.pc + 1 }, slots := t.slots } ∧ Accessed [] s t) ∨
    (∃ rest, s.irqQueue = b :: rest ∧ t = { s with irqQueue := rest }) := by
  unfold fetch8 at h
  split at h
  · next hq =>
    obtain ⟨v, s1, h1, h⟩ := Act.andThen_ok h
    cases h
    obtain ⟨e1, a1⟩ := memRead_ok h1
    refine .inl ⟨hq, ?_, a1.then_regs rfl rfl rfl rfl⟩
    rw [e1]; rfl
  · next rest hq => cases h; exact .inr ⟨rest, hq, rfl⟩

theorem fetch8_accessed {s t : State} {b : Byte} (h : fetch8 s = .ok (b, t)) : Accessed [] s t := by
  rcases fetch8_ok h with ⟨_, _, a⟩ | ⟨_, _, rfl⟩
  · exact a
  · exact .of_slots_eq rfl rfl rfl rfl

/-- A fetch from memory where no device answers. -/
theorem fetch8_of_peek {s : State} {b : Byte} (hq : s.irqQueue = []) (h : s.peek false (s.get16 .pc) = some b) :
    fetch8 s = .ok (b, s.set16 .pc (s.get16 .pc + 1)) := by
  simp [fetch8, hq, memRead_of_peek h]

/-! ## Stack (45_stack_io_control.md R200, R201) -/

theorem push16_ok {v : Word} {s t : State} (h : push16 v s = .ok ((), t)) :
    t = { s with regs := { s.regs with sp := s.regs.sp - 2 }, slots := t.slots } ∧
      Accessed [(s.get16 .sp - 2, false), (s.get16 .sp - 1, false)] s t := by
  obtain ⟨e, a⟩ := memWrite2_ok h
  have ha : s.get16 .sp - 2 + 1 = s.get16 .sp - 1 := by bv_omega
  rw [ha] at a
  exact ⟨e, a.after_regs rfl rfl rfl rfl⟩

theorem pop16_ok {v : Word} {s t : State} (h : pop16 s = .ok (v, t)) :
    t = { s with regs := { s.regs with sp := s.regs.sp + 2 }, slots := t.slots } ∧ Accessed [] s t := by
  obtain ⟨w, s1, h1, h⟩ := Act.andThen_ok h
  cases h
  obtain ⟨e, a⟩ := memRead2_ok h1
  refine ⟨?_, a.then_regs rfl rfl rfl rfl⟩
  rw [e]; rfl

theorem push16_healthy (v : Word) {s : State} (hh : s.healthy) : ∃ t, push16 v s = .ok ((), t) ∧ t.healthy := by
  obtain ⟨t, h, _, ht⟩ := memWrite2_healthy (s.get16 .sp - 2) v (s := s.set16 .sp (s.get16 .sp - 2)) hh
  exact ⟨t, h, ht⟩

theorem pop16_healthy {s : State} (hh : s.healthy) : ∃ v t, pop16 s = .ok (v, t) ∧ t.healthy := by
  obtain ⟨v, t, h, _, ht⟩ := memRead2_healthy (s.get16 .sp) hh
  exact ⟨v, t.set16 .sp (t.get16 .sp + 2), by simp [pop16, h], ht⟩

theorem returnFromCall_ok {s t : State} (h : returnFromCall s = .ok ((), t)) :
    t = { s with regs := { s.regs with sp := s.regs.sp + 2, pc := t.regs.pc }, slots := t.slots } ∧ Accessed [] s t := by
  obtain ⟨w, s1, h1, h⟩ := Act.andThen_ok h
  cases h
  obtain ⟨e, a⟩ := pop16_ok h1
  refine ⟨?_, a.then_regs rfl rfl rfl rfl⟩
  rw [e]; rfl

/-! ## Operand forms (30_encoding.md R86) -/

/-- The address a write of `R8[i]` stores to. -/
def R8Sel.stored (x : R8Sel) (s : State) : List (Word × Bool) :=
  match x with
  | .reg _ => []
  | .m => [(s.get16 .hl, false)]

theorem readR8_ok {x : R8Sel} {s t : State} {v : Byte} (h : readR8 x s = .ok (v, t)) :
    t = { s with slots := t.slots } ∧ Accessed [] s t := by
  cases x with
  | reg r => cases h; exact ⟨rfl, .refl s⟩
  | m => exact memRead_ok h

theorem writeR8_ok {x : R8Sel} {v : Byte} {s t : State} (h : writeR8 x v s = .ok ((), t)) :
    onlyRegsAndCards s t ∧ Accessed (R8Sel.stored x s) s t := by
  cases x with
  | reg r => cases h; exact ⟨rfl, .of_slots_eq rfl rfl rfl rfl⟩
  | m => obtain ⟨e, a⟩ := memWrite_ok h; exact ⟨.of_slots e, a⟩

theorem readR8_healthy (x : R8Sel) {s : State} (hh : s.healthy) :
    ∃ v t, readR8 x s = .ok (v, t) ∧ t = { s with slots := t.slots } ∧ t.healthy := by
  cases x with
  | reg r => exact ⟨_, s, rfl, rfl, hh⟩
  | m => exact busRead_healthy s.mAddr false hh

theorem writeR8_healthy (x : R8Sel) (v : Byte) {s : State} (hh : s.healthy) :
    ∃ t, writeR8 x v s = .ok ((), t) ∧ t.healthy := by
  cases x with
  | reg r => exact ⟨_, rfl, hh⟩
  | m => obtain ⟨t, h, _, ht⟩ := busWrite_healthy s.mAddr v false hh; exact ⟨t, h, ht⟩

/-! ## Taking an interrupt (60_exceptions.md R274) -/

theorem enterInterrupt_ok {inst : IrqInst} {s t : State} (h : enterInterrupt inst s = .ok ((), t)) :
    t.irqQueue = [inst.b1, inst.b2] ∧ t.interruptsEnabled = false ∧ t.regs.pc = s.regs.pc ∧ t.regs.af = s.regs.af ∧
      Accessed (if s.params.irqAcceptPushesPc then [(s.get16 .sp - 2, false), (s.get16 .sp - 1, false)] else []) s t := by
  obtain ⟨_, s1, h1, h⟩ := Act.andThen_ok h
  cases h
  simp only at h1
  split at h1
  · next hp =>
    obtain ⟨e, a⟩ := push16_ok h1
    refine ⟨rfl, by rw [e], by rw [e], by rw [e], ?_⟩
    rw [if_pos hp]
    exact (a.after_regs (s := s) rfl rfl rfl rfl).then_regs rfl rfl rfl rfl
  · next hp =>
    cases h1
    rw [if_neg hp]
    exact ⟨rfl, rfl, rfl, rfl, .of_slots_eq rfl rfl rfl rfl⟩

end Sys2Proof.Machine
end

