-- ==== Sys2Proof/Laws/Exec.lean ====
section
/-! SUPPORT. One lemma for each operation that several instructions share: all it can do when it completes; and from them, the
bus accesses of every instruction. -/

namespace Sys2Proof.Machine

/-! ## The flag cores change nothing outside the register file -/

theorem aluApply_regs (op : AluOp) (imm : Bool) (v : Byte) (s : State) :
    aluApply op imm v s = { s with regs := (aluApply op imm v s).regs } := by
  cases op <;> rfl

theorem aluApply_accessed (op : AluOp) (imm : Bool) (v : Byte) (s : State) : Accessed [] s (aluApply op imm v s) := by
  rw [aluApply_regs]; exact .of_slots_eq rfl rfl rfl rfl

/-- Every ALU operation writes `A` and the flags, and no other register half. -/
theorem aluApply_get8 (op : AluOp) (imm : Bool) (v : Byte) (s : State) {y : Reg8} (h : y ≠ .a) :
    (aluApply op imm v s).get8 y = s.get8 y := by
  cases op <;> simp [aluApply, aluAdd, aluSub, aluAnd, aluXor, aluOr, State.get8_setAcc_ne, h]

/-- `CMP` leaves `A` as it is (42_alu.md R151). -/
theorem aluApply_cmp_acc (imm : Bool) (v : Byte) (s : State) : (aluApply .cmp imm v s).acc = s.acc := by
  simp [aluApply, aluSub]

theorem aluApply_get16 (op : AluOp) (imm : Bool) (v : Byte) (s : State) {x : Reg16} (h : x ≠ .af) :
    (aluApply op imm v s).get16 x = s.get16 x := by
  cases op <;> cases x <;> first | exact absurd rfl h | rfl

/-! ## Shared operations of the families -/

theorem increment_ok {x : R8Sel} {s t : State} (h : increment x s = .next t) :
    onlyRegsAndCards s t ∧ Accessed (R8Sel.stored x s) s t := by
  obtain ⟨v, s1, h1, h⟩ := Act.out_next h
  obtain ⟨_, s2, h2, h⟩ := Act.out_next h
  cases h
  obtain ⟨e1, a1⟩ := readR8_ok h1
  obtain ⟨e2, a2⟩ := writeR8_ok h2
  have hx : R8Sel.stored x (s1.setFlag .ac (acIncrement v)) = R8Sel.stored x s := by rw [e1]; cases x <;> rfl
  rw [hx] at a2
  exact ⟨((onlyRegsAndCards.of_slots e1).trans (.of_regs s1 _)).trans (e2.trans (.of_regs s2 _)),
    (a1.trans (a2.after_regs rfl rfl rfl rfl)).then_regs rfl rfl rfl rfl⟩

theorem decrement_ok {x : R8Sel} {s t : State} (h : decrement x s = .next t) :
    onlyRegsAndCards s t ∧ Accessed (R8Sel.stored x s) s t := by
  obtain ⟨v, s1, h1, h⟩ := Act.out_next h
  obtain ⟨_, s2, h2, h⟩ := Act.out_next h
  cases h
  obtain ⟨e1, a1⟩ := readR8_ok h1
  obtain ⟨e2, a2⟩ := writeR8_ok h2
  have hx : R8Sel.stored x (s1.setFlag .ac (acDecrement v)) = R8Sel.stored x s := by rw [e1]; cases x <;> rfl
  rw [hx] at a2
  exact ⟨((onlyRegsAndCards.of_slots e1).trans (.of_regs s1 _)).trans (e2.trans (.of_regs s2 _)),
    (a1.trans (a2.after_regs rfl rfl rfl rfl)).then_regs rfl rfl rfl rfl⟩

theorem loadRM_ok {dst : Reg8} {s t : State} (h : loadRM dst s = .next t) :
    onlyRegsAndCards s t ∧ Accessed [] s t := by
  obtain ⟨v, s1, h1, h⟩ := Act.out_next h
  cases h
  obtain ⟨e, a⟩ := readR8_ok h1
  exact ⟨(onlyRegsAndCards.of_slots e).trans (.of_regs s1 _), a.then_regs rfl rfl rfl rfl⟩

theorem storeMR_ok {src : Reg8} {s t : State} (h : storeMR src s = .next t) :
    t = { s with slots := t.slots } ∧ Accessed [(s.get16 .hl, false)] s t :=
  memWrite_ok (Act.done_next h)

theorem moveImm_ok {dst : R8Sel} {d8 : Byte} {s t : State} (h : moveImm dst d8 s = .next t) :
    onlyRegsAndCards s t ∧ Accessed (R8Sel.stored dst s) s t :=
  writeR8_ok (Act.done_next h)

theorem aluOperand_ok {op : AluOp} {x : R8Sel} {s t : State} (h : aluOperand op x s = .next t) :
    onlyRegsAndCards s t ∧ Accessed [] s t := by
  obtain ⟨v, s1, h1, h⟩ := Act.out_next h
  cases h
  obtain ⟨e, a⟩ := readR8_ok h1
  refine ⟨(onlyRegsAndCards.of_slots e).trans ?_, a.trans (aluApply_accessed ..)⟩
  rw [aluApply_regs]; exact .of_regs s1 _

theorem aluImmediate_ok {op : AluOp} {d8 : Byte} {s t : State} (h : aluImmediate op d8 s = .next t) :
    t = { s with regs := t.regs } ∧ Accessed [] s t := by
  cases h
  exact ⟨aluApply_regs .., aluApply_accessed ..⟩

theorem jumpIf_ok {cc : Cond} {a16 : Word} {s t : State} (h : jumpIf cc a16 s = .next t) :
    t = { s with regs := { s.regs with pc := t.regs.pc } } ∧ Accessed [] s t := by
  cases h
  split
  · exact ⟨rfl, .of_slots_eq rfl rfl rfl rfl⟩
  · exact ⟨rfl, .refl s⟩

theorem callTo_ok {target : Word} {s t : State} (h : callTo target s = .next t) :
    t = { s with regs := { s.regs with sp := s.regs.sp - 2, pc := target }, slots := t.slots } ∧
      Accessed [(s.get16 .sp - 2, false), (s.get16 .sp - 1, false)] s t := by
  obtain ⟨_, s1, h1, h⟩ := Act.out_next h
  cases h
  obtain ⟨e, a⟩ := push16_ok h1
  refine ⟨?_, a.then_regs rfl rfl rfl rfl⟩
  rw [e]; rfl

theorem callIf_ok {cc : Cond} {a16 : Word} {s t : State} (h : callIf cc a16 s = .next t) :
    t = { s with regs := { s.regs with sp := t.regs.sp, pc := t.regs.pc }, slots := t.slots } ∧
      Accessed ((if s.cond cc then [s.get16 .sp - 2, s.get16 .sp - 1] else []).map fun a => (a, false)) s t := by
  unfold callIf at h
  split at h
  · next hc =>
    obtain ⟨e, a⟩ := callTo_ok h
    refine ⟨?_, by simpa [hc] using a⟩
    rw [e]
  · next hc => cases h; exact ⟨rfl, by simpa [hc] using Accessed.refl s⟩

theorem returnIf_ok {cc : Cond} {s t : State} (h : returnIf cc s = .next t) :
    t = { s with regs := { s.regs with sp := t.regs.sp, pc := t.regs.pc }, slots := t.slots } ∧ Accessed [] s t := by
  unfold returnIf at h
  split at h
  · obtain ⟨e, a⟩ := returnFromCall_ok (Act.done_next h)
    refine ⟨?_, a⟩
    rw [e]
  · cases h; exact ⟨rfl, .refl s⟩

theorem pushPair_ok {x : StackPair} {s t : State} (h : pushPair x s = .next t) :
    t = { s with regs := { s.regs with sp := s.regs.sp - 2 }, slots := t.slots } ∧
      Accessed [(s.get16 .sp - 2, false), (s.get16 .sp - 1, false)] s t :=
  push16_ok (Act.done_next h)

theorem popPair_ok {x : StackPair} {s t : State} (h : popPair x s = .next t) :
    onlyRegsAndCards s t ∧ Accessed [] s t := by
  obtain ⟨v, s1, h1, h⟩ := Act.out_next h
  cases h
  obtain ⟨e, a⟩ := pop16_ok h1
  refine ⟨?_, a.then_regs rfl rfl rfl rfl⟩
  rw [e]; rfl

theorem exchangeTop_ok {s t : State} (h : exchangeTop s = .next t) :
    t = { s with regs := { s.regs with hl := t.regs.hl }, slots := t.slots } ∧
      Accessed [(s.get16 .sp, false), (s.get16 .sp + 1, false)] s t := by
  obtain ⟨v, s1, h1, h⟩ := Act.out_next h
  obtain ⟨_, s2, h2, h⟩ := Act.out_next h
  cases h
  obtain ⟨e1, a1⟩ := memRead2_ok h1
  obtain ⟨e2, a2⟩ := memWrite2_ok h2
  refine ⟨?_, (a1.trans a2).then_regs rfl rfl rfl rfl⟩
  rw [e2, e1]; rfl

/-! ## The bus accesses of an instruction -/

/-- The port `OUT` writes; no other instruction writes a port (20_memory.md R65). -/
def portsWritten : Instr → List (Word × Bool)
  | .outPort d8 => [(portAddr d8, true)]
  | _ => []

/-- The addresses and ports an instruction writes when it is executed in `s`. -/
def accessesOf (s : State) (i : Instr) : List (Word × Bool) :=
  (storesAt s i).map (fun a => (a, false)) ++ portsWritten i

/-- The bus accesses of every instruction that completes: its reads, and writes at `accessesOf` only. -/
theorem exec_accessed {i : Instr} {s t : State} (h : exec i s = .next t) : Accessed (accessesOf s i) s t := by
  cases i
  case staxB | staxD | sta => exact (memWrite_ok (Act.done_next h)).2
  case inrM => exact (increment_ok h).2
  case dcrM => exact (decrement_ok h).2
  case mviM => exact (moveImm_ok h).2
  case ldaxB | ldaxD | lda =>
    obtain ⟨v, s1, h1, h⟩ := Act.out_next h
    cases h
    exact (memRead_ok h1).2.then_regs rfl rfl rfl rfl
  case shld => exact (memWrite2_ok (Act.done_next h)).2
  case lhld =>
    obtain ⟨v, s1, h1, h⟩ := Act.out_next h
    cases h
    exact (memRead2_ok h1).2.then_regs rfl rfl rfl rfl
  case movBM | movCM | movDM | movEM | movHM | movLM | movAM => exact (loadRM_ok h).2
  case movMB | movMC | movMD | movME | movMH | movML | movMA => exact (storeMR_ok h).2
  case addM | adcM | subM | sbbM | anaM | xraM | oraM | cmpM => exact (aluOperand_ok h).2
  case rnz | rz | rnc | rc | rpo | rpe | rp | rm => exact (returnIf_ok h).2
  case popB | popD | popH | popPsw => exact (popPair_ok h).2
  case jnz | jz | jnc | jc | jpo | jpe | jp | jm => exact (jumpIf_ok h).2
  case cnz | cz | cnc | cc | cpo | cpe | cp | cm => simpa [accessesOf, storesAt, portsWritten] using (callIf_ok h).2
  case pushB | pushD | pushH | pushPsw => exact (pushPair_ok h).2
  case adi | aci | sui | sbi | ani | xri | ori | cpi => exact (aluImmediate_ok h).2
  case rst0 | rst1 | rst2 | rst3 | rst4 | rst5 | rst6 | rst7 | call => exact (callTo_ok h).2
  case ret => exact (returnFromCall_ok (Act.done_next h)).2
  case outPort => exact (ioWrite_ok (Act.done_next h)).2
  case inPort =>
    obtain ⟨v, s1, h1, h⟩ := Act.out_next h
    cases h
    exact (ioRead_ok h1).2.then_regs rfl rfl rfl rfl
  case xthl => exact (exchangeTop_ok h).2
  all_goals cases h
  all_goals exact .of_slots_eq rfl rfl rfl rfl

end Sys2Proof.Machine
end

