-- ==== Sys2Proof/Tests/Slice0.lean ====
section
/-! SUPPORT. The model's own tests. Expected results come from 95_test_vectors.md (V, M, A, I, BD, L, X rows), opcode words from
spec/opcode_table.json, and every hypothesis of the statements has a witness here. -/

namespace Sys2Proof.Tests

open Sys2Proof.Machine

/-! ## Well-formedness -/

/-- The one check of `Instr.wf` refuses a byte that is a defined opcode, and lets the twelve undefined bytes pass. -/
theorem test_wf_refuses : Instr.wf (.undefinedOpcode 0x00) = false ∧ Instr.wf (.undefinedOpcode 0x76) = false ∧
    Instr.wf (.undefinedOpcode 0xFF) = false := by decide +kernel

theorem test_wf_accepts : (undefinedOpcodes.all fun op => Instr.wf (.undefinedOpcode op)) = true ∧
    Instr.wf (.jmp 0xFFFF) = true := by decide +kernel

/-! ## Decoding -/

/-- The bytes decode to the instruction, with nothing left over. -/
def decodesAs (r : List Byte × Instr) : Bool :=
  match decode r.1 with
  | .ok (i, []) => i == r.2
  | _ => false

def words00 : List (List Byte × Instr) :=
  [([0x00], .nop), ([0x01, 0x34, 0x12], .lxiB 0x1234), ([0x02], .staxB), ([0x03], .inxB), ([0x04], .inrB),
   ([0x05], .dcrB), ([0x06, 0x5A], .mviB 0x5A), ([0x07], .rlc), ([0x08], .undefinedOpcode 0x08),
   ([0x09], .dadB), ([0x0A], .ldaxB), ([0x0B], .dcxB), ([0x0C], .inrC), ([0x0D], .dcrC),
   ([0x0E, 0x5A], .mviC 0x5A), ([0x0F], .rrc)]

def words10 : List (List Byte × Instr) :=
  [([0x10], .undefinedOpcode 0x10), ([0x11, 0x34, 0x12], .lxiD 0x1234), ([0x12], .staxD), ([0x13], .inxD),
   ([0x14], .inrD), ([0x15], .dcrD), ([0x16, 0x5A], .mviD 0x5A), ([0x17], .ral),
   ([0x18], .undefinedOpcode 0x18), ([0x19], .dadD), ([0x1A], .ldaxD), ([0x1B], .dcxD), ([0x1C], .inrE),
   ([0x1D], .dcrE), ([0x1E, 0x5A], .mviE 0x5A), ([0x1F], .rar)]

def words20 : List (List Byte × Instr) :=
  [([0x20], .undefinedOpcode 0x20), ([0x21, 0x34, 0x12], .lxiH 0x1234), ([0x22, 0x34, 0x12], .shld 0x1234),
   ([0x23], .inxH), ([0x24], .inrH), ([0x25], .dcrH), ([0x26, 0x5A], .mviH 0x5A), ([0x27], .daa),
   ([0x28], .undefinedOpcode 0x28), ([0x29], .dadH), ([0x2A, 0x34, 0x12], .lhld 0x1234), ([0x2B], .dcxH),
   ([0x2C], .inrL), ([0x2D], .dcrL), ([0x2E, 0x5A], .mviL 0x5A), ([0x2F], .cma)]

def words30 : List (List Byte × Instr) :=
  [([0x30], .undefinedOpcode 0x30), ([0x31, 0x34, 0x12], .lxiSp 0x1234), ([0x32, 0x34, 0x12], .sta 0x1234),
   ([0x33], .inxSp), ([0x34], .inrM), ([0x35], .dcrM), ([0x36, 0x5A], .mviM 0x5A), ([0x37], .stc),
   ([0x38], .undefinedOpcode 0x38), ([0x39], .dadSp), ([0x3A, 0x34, 0x12], .lda 0x1234), ([0x3B], .dcxSp),
   ([0x3C], .inrA), ([0x3D], .dcrA), ([0x3E, 0x5A], .mviA 0x5A), ([0x3F], .cmc)]

def words40 : List (List Byte × Instr) :=
  [([0x40], .movBB), ([0x41], .movBC), ([0x42], .movBD), ([0x43], .movBE), ([0x44], .movBH),
   ([0x45], .movBL), ([0x46], .movBM), ([0x47], .movBA), ([0x48], .movCB), ([0x49], .movCC),
   ([0x4A], .movCD), ([0x4B], .movCE), ([0x4C], .movCH), ([0x4D], .movCL), ([0x4E], .movCM),
   ([0x4F], .movCA)]

def words50 : List (List Byte × Instr) :=
  [([0x50], .movDB), ([0x51], .movDC), ([0x52], .movDD), ([0x53], .movDE), ([0x54], .movDH),
   ([0x55], .movDL), ([0x56], .movDM), ([0x57], .movDA), ([0x58], .movEB), ([0x59], .movEC),
   ([0x5A], .movED), ([0x5B], .movEE), ([0x5C], .movEH), ([0x5D], .movEL), ([0x5E], .movEM),
   ([0x5F], .movEA)]

def words60 : List (List Byte × Instr) :=
  [([0x60], .movHB), ([0x61], .movHC), ([0x62], .movHD), ([0x63], .movHE), ([0x64], .movHH),
   ([0x65], .movHL), ([0x66], .movHM), ([0x67], .movHA), ([0x68], .movLB), ([0x69], .movLC),
   ([0x6A], .movLD), ([0x6B], .movLE), ([0x6C], .movLH), ([0x6D], .movLL), ([0x6E], .movLM),
   ([0x6F], .movLA)]

def words70 : List (List Byte × Instr) :=
  [([0x70], .movMB), ([0x71], .movMC), ([0x72], .movMD), ([0x73], .movME), ([0x74], .movMH),
   ([0x75], .movML), ([0x76], .hlt), ([0x77], .movMA), ([0x78], .movAB), ([0x79], .movAC), ([0x7A], .movAD),
   ([0x7B], .movAE), ([0x7C], .movAH), ([0x7D], .movAL), ([0x7E], .movAM), ([0x7F], .movAA)]

def words80 : List (List Byte × Instr) :=
  [([0x80], .addB), ([0x81], .addC), ([0x82], .addD), ([0x83], .addE), ([0x84], .addH), ([0x85], .addL),
   ([0x86], .addM), ([0x87], .addA), ([0x88], .adcB), ([0x89], .adcC), ([0x8A], .adcD), ([0x8B], .adcE),
   ([0x8C], .adcH), ([0x8D], .adcL), ([0x8E], .adcM), ([0x8F], .adcA)]

def words90 : List (List Byte × Instr) :=
  [([0x90], .subB), ([0x91], .subC), ([0x92], .subD), ([0x93], .subE), ([0x94], .subH), ([0x95], .subL),
   ([0x96], .subM), ([0x97], .subA), ([0x98], .sbbB), ([0x99], .sbbC), ([0x9A], .sbbD), ([0x9B], .sbbE),
   ([0x9C], .sbbH), ([0x9D], .sbbL), ([0x9E], .sbbM), ([0x9F], .sbbA)]

def wordsA0 : List (List Byte × Instr) :=
  [([0xA0], .anaB), ([0xA1], .anaC), ([0xA2], .anaD), ([0xA3], .anaE), ([0xA4], .anaH), ([0xA5], .anaL),
   ([0xA6], .anaM), ([0xA7], .anaA), ([0xA8], .xraB), ([0xA9], .xraC), ([0xAA], .xraD), ([0xAB], .xraE),
   ([0xAC], .xraH), ([0xAD], .xraL), ([0xAE], .xraM), ([0xAF], .xraA)]

def wordsB0 : List (List Byte × Instr) :=
  [([0xB0], .oraB), ([0xB1], .oraC), ([0xB2], .oraD), ([0xB3], .oraE), ([0xB4], .oraH), ([0xB5], .oraL),
   ([0xB6], .oraM), ([0xB7], .oraA), ([0xB8], .cmpB), ([0xB9], .cmpC), ([0xBA], .cmpD), ([0xBB], .cmpE),
   ([0xBC], .cmpH), ([0xBD], .cmpL), ([0xBE], .cmpM), ([0xBF], .cmpA)]

def wordsC0 : List (List Byte × Instr) :=
  [([0xC0], .rnz), ([0xC1], .popB), ([0xC2, 0x34, 0x12], .jnz 0x1234), ([0xC3, 0x34, 0x12], .jmp 0x1234),
   ([0xC4, 0x34, 0x12], .cnz 0x1234), ([0xC5], .pushB), ([0xC6, 0x5A], .adi 0x5A), ([0xC7], .rst0),
   ([0xC8], .rz), ([0xC9], .ret), ([0xCA, 0x34, 0x12], .jz 0x1234), ([0xCB], .undefinedOpcode 0xCB),
   ([0xCC, 0x34, 0x12], .cz 0x1234), ([0xCD, 0x34, 0x12], .call 0x1234), ([0xCE, 0x5A], .aci 0x5A),
   ([0xCF], .rst1)]

def wordsD0 : List (List Byte × Instr) :=
  [([0xD0], .rnc), ([0xD1], .popD), ([0xD2, 0x34, 0x12], .jnc 0x1234), ([0xD3, 0x5A], .outPort 0x5A),
   ([0xD4, 0x34, 0x12], .cnc 0x1234), ([0xD5], .pushD), ([0xD6, 0x5A], .sui 0x5A), ([0xD7], .rst2),
   ([0xD8], .rc), ([0xD9], .undefinedOpcode 0xD9), ([0xDA, 0x34, 0x12], .jc 0x1234),
   ([0xDB, 0x5A], .inPort 0x5A), ([0xDC, 0x34, 0x12], .cc 0x1234), ([0xDD], .undefinedOpcode 0xDD),
   ([0xDE, 0x5A], .sbi 0x5A), ([0xDF], .rst3)]

def wordsE0 : List (List Byte × Instr) :=
  [([0xE0], .rpo), ([0xE1], .popH), ([0xE2, 0x34, 0x12], .jpo 0x1234), ([0xE3], .xthl),
   ([0xE4, 0x34, 0x12], .cpo 0x1234), ([0xE5], .pushH), ([0xE6, 0x5A], .ani 0x5A), ([0xE7], .rst4),
   ([0xE8], .rpe), ([0xE9], .pchl), ([0xEA, 0x34, 0x12], .jpe 0x1234), ([0xEB], .xchg),
   ([0xEC, 0x34, 0x12], .cpe 0x1234), ([0xED], .undefinedOpcode 0xED), ([0xEE, 0x5A], .xri 0x5A),
   ([0xEF], .rst5)]

def wordsF0 : List (List Byte × Instr) :=
  [([0xF0], .rp), ([0xF1], .popPsw), ([0xF2, 0x34, 0x12], .jp 0x1234), ([0xF3], .di),
   ([0xF4, 0x34, 0x12], .cp 0x1234), ([0xF5], .pushPsw), ([0xF6, 0x5A], .ori 0x5A), ([0xF7], .rst6),
   ([0xF8], .rm), ([0xF9], .sphl), ([0xFA, 0x34, 0x12], .jm 0x1234), ([0xFB], .ei),
   ([0xFC, 0x34, 0x12], .cm 0x1234), ([0xFD], .undefinedOpcode 0xFD), ([0xFE, 0x5A], .cpi 0x5A),
   ([0xFF], .rst7)]

/-- Every opcode byte, its operand bytes 0x5A or 0x34 0x12 (30_encoding.md R90, R92; spec/opcode_table.json). -/
def words : List (List Byte × Instr) :=
  words00 ++ words10 ++ words20 ++ words30 ++
  words40 ++ words50 ++ words60 ++ words70 ++
  words80 ++ words90 ++ wordsA0 ++ wordsB0 ++
  wordsC0 ++ wordsD0 ++ wordsE0 ++ wordsF0

theorem test_decode : (words.all decodesAs) = true ∧ words.length = 256 := by decide +kernel

/-- The decoder refuses bytes that end inside an instruction. -/
theorem test_decode_short : decode [] = .error .noOpcode ∧ decode [0x3E] = .error (.missingOperand 0x3E) ∧
    decode [0xC3, 0x00] = .error (.missingOperand 0xC3) := ⟨rfl, rfl, rfl⟩

/-- The host's numbering: bits 15 to 8 are the second byte. -/
theorem test_table_word : decodeTableWord 24 0x1234C3 = some (.jmp 0x1234) ∧ decodeTableWord 8 0x3E = some (.mviA 0x00) ∧
    decodeTableWord 8 0x76 = some .hlt := by decide +kernel

/-! ## Single steps on the flat machine -/

/-- The flat machine of 95_test_vectors.md with these registers and bytes, and `rest` in slots 1 to 17. -/
def bench (p : Params) (regs : Regs) (bytes : List (Nat × Byte)) (rest : List (Option Slot)) : State :=
  { powerOn p with
    regs := regs
    slots := some (flatRam (bytes.foldl (fun m c => Memory.write 0x00 m c.1 c.2) [])) :: rest }

/-- Seventeen empty slots. -/
def noCards : List (Option Slot) := List.replicate 17 none

/-- The bytes of an instruction at `a`, as cells. -/
def codeAt (a : Word) (code : List Byte) : List (Nat × Byte) :=
  (List.range code.length).zipWith (fun n b => ((a.toNat + n) % 0x10000, b)) code

/-- A row of 95_test_vectors.md: the registers (AF, BC, DE, HL, SP, PC), memory bytes and instruction bytes before, the
registers and the memory bytes written after. -/
structure StepVector where
  before : Regs
  bytes : List (Nat × Byte)
  code : List Byte
  after : Regs
  written : List (Nat × Byte)

/-- One step from the row's start ends in the row's end, with nothing else changed. -/
def StepVector.holds (v : StepVector) : Bool :=
  let start := v.bytes ++ codeAt v.before.pc v.code
  match step (bench {} v.before start noCards) with
  | .next t => t == bench {} v.after (start ++ v.written) noCards
  | _ => false

/-- V1 to V23 of 95_test_vectors.md (40_data_moves.md). -/
def movesVectors : List StepVector :=
  [⟨⟨0x0002, 0x1200, 0x0000, 0x0000, 0x0000, 0x0100⟩, [], [0x78], ⟨0x1202, 0x1200, 0x0000, 0x0000, 0x0000, 0x0101⟩, []⟩,
   ⟨⟨0x9C02, 0x0000, 0x0000, 0x0000, 0x0000, 0x0100⟩, [], [0x7F], ⟨0x9C02, 0x0000, 0x0000, 0x0000, 0x0000, 0x0101⟩, []⟩,
   ⟨⟨0x0002, 0x0000, 0x0000, 0x2000, 0x0000, 0x0100⟩, [(0x2000, 0x5A)], [0x7E], ⟨0x5A02, 0x0000, 0x0000, 0x2000, 0x0000, 0x0101⟩, []⟩,
   ⟨⟨0x0002, 0x0000, 0x0000, 0x2000, 0x0000, 0x0100⟩, [(0x2000, 0x21)], [0x66], ⟨0x0002, 0x0000, 0x0000, 0x2100, 0x0000, 0x0101⟩, []⟩,
   ⟨⟨0x7702, 0x0000, 0x0000, 0x2000, 0x0000, 0x0100⟩, [], [0x77], ⟨0x7702, 0x0000, 0x0000, 0x2000, 0x0000, 0x0101⟩, [(0x2000, 0x77)]⟩,
   ⟨⟨0x0002, 0x0000, 0x0000, 0x2000, 0x0000, 0x0100⟩, [], [0x74], ⟨0x0002, 0x0000, 0x0000, 0x2000, 0x0000, 0x0101⟩, [(0x2000, 0x20)]⟩,
   ⟨⟨0x0002, 0x0000, 0x0000, 0x0000, 0x0000, 0x0100⟩, [], [0x3E, 0x42], ⟨0x4202, 0x0000, 0x0000, 0x0000, 0x0000, 0x0102⟩, []⟩,
   ⟨⟨0x0002, 0x0000, 0x0000, 0x0000, 0x0000, 0x0100⟩, [], [0x2E, 0xFF], ⟨0x0002, 0x0000, 0x0000, 0x00FF, 0x0000, 0x0102⟩, []⟩,
   ⟨⟨0x0002, 0x0000, 0x0000, 0x3000, 0x0000, 0x0100⟩, [], [0x36, 0xFF], ⟨0x0002, 0x0000, 0x0000, 0x3000, 0x0000, 0x0102⟩, [(0x3000, 0xFF)]⟩,
   ⟨⟨0x0002, 0x0000, 0x0000, 0x0000, 0x0000, 0x0100⟩, [], [0x21, 0x34, 0x12], ⟨0x0002, 0x0000, 0x0000, 0x1234, 0x0000, 0x0103⟩, []⟩,
   ⟨⟨0x0002, 0x0000, 0x0000, 0x0000, 0x0000, 0x0100⟩, [], [0x31, 0x00, 0x20], ⟨0x0002, 0x0000, 0x0000, 0x0000, 0x2000, 0x0103⟩, []⟩,
   ⟨⟨0x0002, 0x0000, 0x0000, 0x0000, 0x0000, 0x0100⟩, [], [0x01, 0xCD, 0xAB], ⟨0x0002, 0xABCD, 0x0000, 0x0000, 0x0000, 0x0103⟩, []⟩] ++
  [⟨⟨0x0002, 0x0000, 0x0000, 0x0000, 0x0000, 0x0100⟩, [(0x4000, 0x99)], [0x3A, 0x00, 0x40], ⟨0x9902, 0x0000, 0x0000, 0x0000, 0x0000, 0x0103⟩, []⟩,
   ⟨⟨0x5502, 0x0000, 0x0000, 0x0000, 0x0000, 0x0100⟩, [], [0x32, 0x00, 0x40], ⟨0x5502, 0x0000, 0x0000, 0x0000, 0x0000, 0x0103⟩, [(0x4000, 0x55)]⟩,
   ⟨⟨0x0002, 0x0000, 0x2100, 0x0000, 0x0000, 0x0100⟩, [(0x2100, 0x0C)], [0x1A], ⟨0x0C02, 0x0000, 0x2100, 0x0000, 0x0000, 0x0101⟩, []⟩,
   ⟨⟨0x0002, 0x2101, 0x0000, 0x0000, 0x0000, 0x0100⟩, [(0x2101, 0xC0)], [0x0A], ⟨0xC002, 0x2101, 0x0000, 0x0000, 0x0000, 0x0101⟩, []⟩,
   ⟨⟨0xAB02, 0x2200, 0x0000, 0x0000, 0x0000, 0x0100⟩, [], [0x02], ⟨0xAB02, 0x2200, 0x0000, 0x0000, 0x0000, 0x0101⟩, [(0x2200, 0xAB)]⟩,
   ⟨⟨0xCD02, 0x0000, 0x2201, 0x0000, 0x0000, 0x0100⟩, [], [0x12], ⟨0xCD02, 0x0000, 0x2201, 0x0000, 0x0000, 0x0101⟩, [(0x2201, 0xCD)]⟩,
   ⟨⟨0x0002, 0x0000, 0x0000, 0x0000, 0x0000, 0x0100⟩, [(0x4000, 0x78), (0x4001, 0x56)], [0x2A, 0x00, 0x40], ⟨0x0002, 0x0000, 0x0000, 0x5678, 0x0000, 0x0103⟩, []⟩,
   ⟨⟨0x0002, 0x0000, 0x0000, 0x0000, 0x0000, 0x0100⟩, [(0xFFFF, 0x11), (0x0000, 0x22)], [0x2A, 0xFF, 0xFF], ⟨0x0002, 0x0000, 0x0000, 0x2211, 0x0000, 0x0103⟩, []⟩,
   ⟨⟨0x0002, 0x0000, 0x0000, 0xBEEF, 0x0000, 0x0100⟩, [], [0x22, 0x00, 0x40], ⟨0x0002, 0x0000, 0x0000, 0xBEEF, 0x0000, 0x0103⟩, [(0x4000, 0xEF), (0x4001, 0xBE)]⟩,
   ⟨⟨0x0002, 0x0000, 0x1111, 0x2222, 0x0000, 0x0100⟩, [], [0xEB], ⟨0x0002, 0x0000, 0x2222, 0x1111, 0x0000, 0x0101⟩, []⟩,
   ⟨⟨0x0002, 0x0000, 0x0000, 0x2400, 0x0000, 0x0100⟩, [], [0xF9], ⟨0x0002, 0x0000, 0x0000, 0x2400, 0x2400, 0x0101⟩, []⟩]

theorem test_moves : (movesVectors.all StepVector.holds) = true := by decide +kernel

/-- V30 to V49 of 95_test_vectors.md (41_inc_dec_dad.md). -/
def countsVectors : List StepVector :=
  [⟨⟨0xFF02, 0x0000, 0x0000, 0x0000, 0x0000, 0x0100⟩, [], [0x3C], ⟨0x0056, 0x0000, 0x0000, 0x0000, 0x0000, 0x0101⟩, []⟩,
   ⟨⟨0xFF03, 0x0000, 0x0000, 0x0000, 0x0000, 0x0100⟩, [], [0x3C], ⟨0x0057, 0x0000, 0x0000, 0x0000, 0x0000, 0x0101⟩, []⟩,
   ⟨⟨0x0002, 0x7F00, 0x0000, 0x0000, 0x0000, 0x0100⟩, [], [0x04], ⟨0x0092, 0x8000, 0x0000, 0x0000, 0x0000, 0x0101⟩, []⟩,
   ⟨⟨0x0002, 0x000F, 0x0000, 0x0000, 0x0000, 0x0100⟩, [], [0x0C], ⟨0x0012, 0x0010, 0x0000, 0x0000, 0x0000, 0x0101⟩, []⟩,
   ⟨⟨0x0002, 0x0000, 0x0000, 0x0000, 0x0000, 0x0100⟩, [], [0x14], ⟨0x0002, 0x0000, 0x0100, 0x0000, 0x0000, 0x0101⟩, []⟩,
   ⟨⟨0x0002, 0x0000, 0x0000, 0x2000, 0x0000, 0x0100⟩, [(0x2000, 0x3F)], [0x34], ⟨0x0012, 0x0000, 0x0000, 0x2000, 0x0000, 0x0101⟩, [(0x2000, 0x40)]⟩,
   ⟨⟨0x0002, 0x0100, 0x0000, 0x0000, 0x0000, 0x0100⟩, [], [0x05], ⟨0x0046, 0x0000, 0x0000, 0x0000, 0x0000, 0x0101⟩, []⟩,
   ⟨⟨0x0002, 0x0000, 0x0000, 0x0000, 0x0000, 0x0100⟩, [], [0x05], ⟨0x0096, 0xFF00, 0x0000, 0x0000, 0x0000, 0x0101⟩, []⟩,
   ⟨⟨0x0002, 0x0000, 0x0010, 0x0000, 0x0000, 0x0100⟩, [], [0x1D], ⟨0x0016, 0x0000, 0x000F, 0x0000, 0x0000, 0x0101⟩, []⟩,
   ⟨⟨0x8003, 0x0000, 0x0000, 0x0000, 0x0000, 0x0100⟩, [], [0x3D], ⟨0x7F13, 0x0000, 0x0000, 0x0000, 0x0000, 0x0101⟩, []⟩,
   ⟨⟨0x0002, 0x0000, 0x0000, 0x2000, 0x0000, 0x0100⟩, [(0x2000, 0x20)], [0x35], ⟨0x0012, 0x0000, 0x0000, 0x2000, 0x0000, 0x0101⟩, [(0x2000, 0x1F)]⟩,
   ⟨⟨0x0002, 0x0000, 0x00FF, 0x0000, 0x0000, 0x0100⟩, [], [0x13], ⟨0x0002, 0x0000, 0x0100, 0x0000, 0x0000, 0x0101⟩, []⟩] ++
  [⟨⟨0x0002, 0x1234, 0x0000, 0xFFFF, 0x0000, 0x0100⟩, [], [0x23], ⟨0x0002, 0x1234, 0x0000, 0x0000, 0x0000, 0x0101⟩, []⟩,
   ⟨⟨0x0002, 0x0000, 0x0000, 0x0000, 0xFFFF, 0x0100⟩, [], [0x33], ⟨0x0002, 0x0000, 0x0000, 0x0000, 0x0000, 0x0101⟩, []⟩,
   ⟨⟨0x0002, 0x0000, 0x0000, 0x1000, 0x0000, 0x0100⟩, [], [0x2B], ⟨0x0002, 0x0000, 0x0000, 0x0FFF, 0x0000, 0x0101⟩, []⟩,
   ⟨⟨0x0002, 0x0000, 0x0000, 0x0000, 0x0000, 0x0100⟩, [], [0x0B], ⟨0x0002, 0xFFFF, 0x0000, 0x0000, 0x0000, 0x0101⟩, []⟩,
   ⟨⟨0x0002, 0x0000, 0x1111, 0x1234, 0x0000, 0x0100⟩, [], [0x19], ⟨0x0002, 0x0000, 0x1111, 0x2345, 0x0000, 0x0101⟩, []⟩,
   ⟨⟨0x0002, 0x0001, 0x0000, 0xFFFF, 0x0000, 0x0100⟩, [], [0x09], ⟨0x0003, 0x0001, 0x0000, 0x0000, 0x0000, 0x0101⟩, []⟩,
   ⟨⟨0x0002, 0x0000, 0x0000, 0x8000, 0x0000, 0x0100⟩, [], [0x29], ⟨0x0003, 0x0000, 0x0000, 0x0000, 0x0000, 0x0101⟩, []⟩,
   ⟨⟨0x0003, 0x0000, 0x0000, 0x0001, 0x2400, 0x0100⟩, [], [0x39], ⟨0x0002, 0x0000, 0x0000, 0x2401, 0x2400, 0x0101⟩, []⟩]

theorem test_counts : (countsVectors.all StepVector.holds) = true := by decide +kernel

/-- V60 to V97 of 95_test_vectors.md (42_alu.md). -/
def aluVectors : List StepVector :=
  [⟨⟨0x4202, 0x1800, 0x0000, 0x0000, 0x0000, 0x0100⟩, [], [0x80], ⟨0x5A06, 0x1800, 0x0000, 0x0000, 0x0000, 0x0101⟩, []⟩,
   ⟨⟨0xFF02, 0x0001, 0x0000, 0x0000, 0x0000, 0x0100⟩, [], [0x81], ⟨0x0057, 0x0001, 0x0000, 0x0000, 0x0000, 0x0101⟩, []⟩,
   ⟨⟨0x8002, 0x0000, 0x0000, 0x0000, 0x0000, 0x0100⟩, [], [0x87], ⟨0x0047, 0x0000, 0x0000, 0x0000, 0x0000, 0x0101⟩, []⟩,
   ⟨⟨0x0802, 0x0000, 0x0000, 0x0000, 0x0000, 0x0100⟩, [], [0x87], ⟨0x1012, 0x0000, 0x0000, 0x0000, 0x0000, 0x0101⟩, []⟩,
   ⟨⟨0x0102, 0x0000, 0x0000, 0x2000, 0x0000, 0x0100⟩, [(0x2000, 0x7F)], [0x86], ⟨0x8092, 0x0000, 0x0000, 0x2000, 0x0000, 0x0101⟩, []⟩,
   ⟨⟨0x3D03, 0x0042, 0x0000, 0x0000, 0x0000, 0x0100⟩, [], [0x89], ⟨0x8092, 0x0042, 0x0000, 0x0000, 0x0000, 0x0101⟩, []⟩,
   ⟨⟨0xFF03, 0xFF00, 0x0000, 0x0000, 0x0000, 0x0100⟩, [], [0x88], ⟨0xFF97, 0xFF00, 0x0000, 0x0000, 0x0000, 0x0101⟩, []⟩,
   ⟨⟨0x0003, 0xFF00, 0x0000, 0x0000, 0x0000, 0x0100⟩, [], [0x88], ⟨0x0057, 0xFF00, 0x0000, 0x0000, 0x0000, 0x0101⟩, []⟩,
   ⟨⟨0x0F03, 0x0000, 0x0000, 0x0000, 0x0000, 0x0100⟩, [], [0x88], ⟨0x1012, 0x0000, 0x0000, 0x0000, 0x0000, 0x0101⟩, []⟩,
   ⟨⟨0x3E02, 0x3E00, 0x0000, 0x0000, 0x0000, 0x0100⟩, [], [0x90], ⟨0x0056, 0x3E00, 0x0000, 0x0000, 0x0000, 0x0101⟩, []⟩,
   ⟨⟨0x0002, 0x0100, 0x0000, 0x0000, 0x0000, 0x0100⟩, [], [0x90], ⟨0xFF87, 0x0100, 0x0000, 0x0000, 0x0000, 0x0101⟩, []⟩,
   ⟨⟨0xC502, 0x0000, 0x0000, 0x0000, 0x0000, 0x0100⟩, [], [0x97], ⟨0x0056, 0x0000, 0x0000, 0x0000, 0x0000, 0x0101⟩, []⟩] ++
  [⟨⟨0x2002, 0x0000, 0x0100, 0x0000, 0x0000, 0x0100⟩, [], [0x92], ⟨0x1F02, 0x0000, 0x0100, 0x0000, 0x0000, 0x0101⟩, []⟩,
   ⟨⟨0x0403, 0x0000, 0x0000, 0x0002, 0x0000, 0x0100⟩, [], [0x9D], ⟨0x0112, 0x0000, 0x0000, 0x0002, 0x0000, 0x0101⟩, []⟩,
   ⟨⟨0x0003, 0xFF00, 0x0000, 0x0000, 0x0000, 0x0100⟩, [], [0x98], ⟨0x0047, 0xFF00, 0x0000, 0x0000, 0x0000, 0x0101⟩, []⟩,
   ⟨⟨0x1003, 0x1000, 0x0000, 0x0000, 0x0000, 0x0100⟩, [], [0x98], ⟨0xFF97, 0x1000, 0x0000, 0x0000, 0x0000, 0x0101⟩, []⟩,
   ⟨⟨0xFC02, 0x000F, 0x0000, 0x0000, 0x0000, 0x0100⟩, [], [0xA1], ⟨0x0C16, 0x000F, 0x0000, 0x0000, 0x0000, 0x0101⟩, []⟩,
   ⟨⟨0xF003, 0x0F00, 0x0000, 0x0000, 0x0000, 0x0100⟩, [], [0xA0], ⟨0x0056, 0x0F00, 0x0000, 0x0000, 0x0000, 0x0101⟩, []⟩,
   ⟨⟨0x7002, 0x0700, 0x0000, 0x0000, 0x0000, 0x0100⟩, [], [0xA0], ⟨0x0046, 0x0700, 0x0000, 0x0000, 0x0000, 0x0101⟩, []⟩,
   ⟨⟨0x0803, 0x0000, 0x0000, 0x0000, 0x0000, 0x0100⟩, [], [0xA7], ⟨0x0812, 0x0000, 0x0000, 0x0000, 0x0000, 0x0101⟩, []⟩,
   ⟨⟨0x5C02, 0x7800, 0x0000, 0x0000, 0x0000, 0x0100⟩, [], [0xA8], ⟨0x2406, 0x7800, 0x0000, 0x0000, 0x0000, 0x0101⟩, []⟩,
   ⟨⟨0x9913, 0x0000, 0x0000, 0x0000, 0x0000, 0x0100⟩, [], [0xAF], ⟨0x0046, 0x0000, 0x0000, 0x0000, 0x0000, 0x0101⟩, []⟩,
   ⟨⟨0x3302, 0x000F, 0x0000, 0x0000, 0x0000, 0x0100⟩, [], [0xB1], ⟨0x3F06, 0x000F, 0x0000, 0x0000, 0x0000, 0x0101⟩, []⟩,
   ⟨⟨0x0003, 0x0000, 0x0000, 0x0000, 0x0000, 0x0100⟩, [], [0xB7], ⟨0x0046, 0x0000, 0x0000, 0x0000, 0x0000, 0x0101⟩, []⟩] ++
  [⟨⟨0x0A02, 0x0000, 0x0005, 0x0000, 0x0000, 0x0100⟩, [], [0xBB], ⟨0x0A16, 0x0000, 0x0005, 0x0000, 0x0000, 0x0101⟩, []⟩,
   ⟨⟨0x0202, 0x0000, 0x0005, 0x0000, 0x0000, 0x0100⟩, [], [0xBB], ⟨0x0283, 0x0000, 0x0005, 0x0000, 0x0000, 0x0101⟩, []⟩,
   ⟨⟨0x7702, 0x0000, 0x0000, 0x0000, 0x0000, 0x0100⟩, [], [0xBF], ⟨0x7756, 0x0000, 0x0000, 0x0000, 0x0000, 0x0101⟩, []⟩,
   ⟨⟨0x0502, 0x0000, 0x0000, 0x2000, 0x0000, 0x0100⟩, [(0x2000, 0x05)], [0xBE], ⟨0x0556, 0x0000, 0x0000, 0x2000, 0x0000, 0x0101⟩, []⟩,
   ⟨⟨0x0F02, 0x0000, 0x0000, 0x0000, 0x0000, 0x0100⟩, [], [0xC6, 0x01], ⟨0x1012, 0x0000, 0x0000, 0x0000, 0x0000, 0x0102⟩, []⟩,
   ⟨⟨0x5603, 0x0000, 0x0000, 0x0000, 0x0000, 0x0100⟩, [], [0xCE, 0xBE], ⟨0x1513, 0x0000, 0x0000, 0x0000, 0x0000, 0x0102⟩, []⟩,
   ⟨⟨0x0002, 0x0000, 0x0000, 0x0000, 0x0000, 0x0100⟩, [], [0xD6, 0x01], ⟨0xFF87, 0x0000, 0x0000, 0x0000, 0x0000, 0x0102⟩, []⟩,
   ⟨⟨0x0003, 0x0000, 0x0000, 0x0000, 0x0000, 0x0100⟩, [], [0xDE, 0x01], ⟨0xFE83, 0x0000, 0x0000, 0x0000, 0x0000, 0x0102⟩, []⟩,
   ⟨⟨0x3A02, 0x0000, 0x0000, 0x0000, 0x0000, 0x0100⟩, [], [0xE6, 0x0F], ⟨0x0A06, 0x0000, 0x0000, 0x0000, 0x0000, 0x0102⟩, []⟩,
   ⟨⟨0xFF03, 0x0000, 0x0000, 0x0000, 0x0000, 0x0100⟩, [], [0xE6, 0x08], ⟨0x0802, 0x0000, 0x0000, 0x0000, 0x0000, 0x0102⟩, []⟩,
   ⟨⟨0x3B02, 0x0000, 0x0000, 0x0000, 0x0000, 0x0100⟩, [], [0xEE, 0x81], ⟨0xBA82, 0x0000, 0x0000, 0x0000, 0x0000, 0x0102⟩, []⟩,
   ⟨⟨0xB502, 0x0000, 0x0000, 0x0000, 0x0000, 0x0100⟩, [], [0xF6, 0x0F], ⟨0xBF82, 0x0000, 0x0000, 0x0000, 0x0000, 0x0102⟩, []⟩] ++
  [⟨⟨0x4A02, 0x0000, 0x0000, 0x0000, 0x0000, 0x0100⟩, [], [0xFE, 0x40], ⟨0x4A16, 0x0000, 0x0000, 0x0000, 0x0000, 0x0102⟩, []⟩,
   ⟨⟨0x4002, 0x0000, 0x0000, 0x0000, 0x0000, 0x0100⟩, [], [0xFE, 0x4A], ⟨0x4087, 0x0000, 0x0000, 0x0000, 0x0000, 0x0102⟩, []⟩]

theorem test_alu : (aluVectors.all StepVector.holds) = true := by decide +kernel

/-- V110 to V129 of 95_test_vectors.md (43_rotate_daa_misc.md). -/
def rotatesVectors : List StepVector :=
  [⟨⟨0xF202, 0x0000, 0x0000, 0x0000, 0x0000, 0x0100⟩, [], [0x07], ⟨0xE503, 0x0000, 0x0000, 0x0000, 0x0000, 0x0101⟩, []⟩,
   ⟨⟨0x0003, 0x0000, 0x0000, 0x0000, 0x0000, 0x0100⟩, [], [0x07], ⟨0x0002, 0x0000, 0x0000, 0x0000, 0x0000, 0x0101⟩, []⟩,
   ⟨⟨0x0102, 0x0000, 0x0000, 0x0000, 0x0000, 0x0100⟩, [], [0x0F], ⟨0x8003, 0x0000, 0x0000, 0x0000, 0x0000, 0x0101⟩, []⟩,
   ⟨⟨0xB502, 0x0000, 0x0000, 0x0000, 0x0000, 0x0100⟩, [], [0x17], ⟨0x6A03, 0x0000, 0x0000, 0x0000, 0x0000, 0x0101⟩, []⟩,
   ⟨⟨0x0003, 0x0000, 0x0000, 0x0000, 0x0000, 0x0100⟩, [], [0x17], ⟨0x0102, 0x0000, 0x0000, 0x0000, 0x0000, 0x0101⟩, []⟩,
   ⟨⟨0x6A03, 0x0000, 0x0000, 0x0000, 0x0000, 0x0100⟩, [], [0x1F], ⟨0xB502, 0x0000, 0x0000, 0x0000, 0x0000, 0x0101⟩, []⟩,
   ⟨⟨0x0102, 0x0000, 0x0000, 0x0000, 0x0000, 0x0100⟩, [], [0x1F], ⟨0x0003, 0x0000, 0x0000, 0x0000, 0x0000, 0x0101⟩, []⟩,
   ⟨⟨0x9B02, 0x0000, 0x0000, 0x0000, 0x0000, 0x0100⟩, [], [0x27], ⟨0x0113, 0x0000, 0x0000, 0x0000, 0x0000, 0x0101⟩, []⟩,
   ⟨⟨0x7D02, 0x0000, 0x0000, 0x0000, 0x0000, 0x0100⟩, [], [0x27], ⟨0x8392, 0x0000, 0x0000, 0x0000, 0x0000, 0x0101⟩, []⟩,
   ⟨⟨0x4502, 0x0000, 0x0000, 0x0000, 0x0000, 0x0100⟩, [], [0x27], ⟨0x4502, 0x0000, 0x0000, 0x0000, 0x0000, 0x0101⟩, []⟩,
   ⟨⟨0x1212, 0x0000, 0x0000, 0x0000, 0x0000, 0x0100⟩, [], [0x27], ⟨0x1806, 0x0000, 0x0000, 0x0000, 0x0000, 0x0101⟩, []⟩,
   ⟨⟨0x1203, 0x0000, 0x0000, 0x0000, 0x0000, 0x0100⟩, [], [0x27], ⟨0x7207, 0x0000, 0x0000, 0x0000, 0x0000, 0x0101⟩, []⟩] ++
  [⟨⟨0x9A02, 0x0000, 0x0000, 0x0000, 0x0000, 0x0100⟩, [], [0x27], ⟨0x0057, 0x0000, 0x0000, 0x0000, 0x0000, 0x0101⟩, []⟩,
   ⟨⟨0xFF02, 0x0000, 0x0000, 0x0000, 0x0000, 0x0100⟩, [], [0x27], ⟨0x6517, 0x0000, 0x0000, 0x0000, 0x0000, 0x0101⟩, []⟩,
   ⟨⟨0x51D7, 0x0000, 0x0000, 0x0000, 0x0000, 0x0100⟩, [], [0x2F], ⟨0xAED7, 0x0000, 0x0000, 0x0000, 0x0000, 0x0101⟩, []⟩,
   ⟨⟨0x0003, 0x0000, 0x0000, 0x0000, 0x0000, 0x0100⟩, [], [0x3F], ⟨0x0002, 0x0000, 0x0000, 0x0000, 0x0000, 0x0101⟩, []⟩,
   ⟨⟨0x0002, 0x0000, 0x0000, 0x0000, 0x0000, 0x0100⟩, [], [0x3F], ⟨0x0003, 0x0000, 0x0000, 0x0000, 0x0000, 0x0101⟩, []⟩,
   ⟨⟨0x0002, 0x0000, 0x0000, 0x0000, 0x0000, 0x0100⟩, [], [0x37], ⟨0x0003, 0x0000, 0x0000, 0x0000, 0x0000, 0x0101⟩, []⟩,
   ⟨⟨0x0003, 0x0000, 0x0000, 0x0000, 0x0000, 0x0100⟩, [], [0x37], ⟨0x0003, 0x0000, 0x0000, 0x0000, 0x0000, 0x0101⟩, []⟩,
   ⟨⟨0x12D7, 0x0000, 0x0000, 0x0000, 0x1234, 0x0100⟩, [], [0x00], ⟨0x12D7, 0x0000, 0x0000, 0x0000, 0x1234, 0x0101⟩, []⟩]

theorem test_rotates : (rotatesVectors.all StepVector.holds) = true := by decide +kernel

/-- V140 to V164 of 95_test_vectors.md (44_control_flow.md). -/
def controlVectors : List StepVector :=
  [⟨⟨0x0002, 0x0000, 0x0000, 0x0000, 0x0000, 0x0000⟩, [], [0xC3, 0x00, 0x01], ⟨0x0002, 0x0000, 0x0000, 0x0000, 0x0000, 0x0100⟩, []⟩,
   ⟨⟨0x0042, 0x0000, 0x0000, 0x0000, 0x0000, 0x0200⟩, [], [0xCA, 0x34, 0x12], ⟨0x0042, 0x0000, 0x0000, 0x0000, 0x0000, 0x1234⟩, []⟩,
   ⟨⟨0x0002, 0x0000, 0x0000, 0x0000, 0x0000, 0x0200⟩, [], [0xCA, 0x34, 0x12], ⟨0x0002, 0x0000, 0x0000, 0x0000, 0x0000, 0x0203⟩, []⟩,
   ⟨⟨0x0042, 0x0000, 0x0000, 0x0000, 0x0000, 0x0100⟩, [], [0xC2, 0x00, 0x30], ⟨0x0042, 0x0000, 0x0000, 0x0000, 0x0000, 0x0103⟩, []⟩,
   ⟨⟨0x0003, 0x0000, 0x0000, 0x0000, 0x0000, 0x0100⟩, [], [0xD2, 0x00, 0x30], ⟨0x0003, 0x0000, 0x0000, 0x0000, 0x0000, 0x0103⟩, []⟩,
   ⟨⟨0x0003, 0x0000, 0x0000, 0x0000, 0x0000, 0x0100⟩, [], [0xDA, 0x00, 0x30], ⟨0x0003, 0x0000, 0x0000, 0x0000, 0x0000, 0x3000⟩, []⟩,
   ⟨⟨0x0006, 0x0000, 0x0000, 0x0000, 0x0000, 0x0100⟩, [], [0xE2, 0x00, 0x30], ⟨0x0006, 0x0000, 0x0000, 0x0000, 0x0000, 0x0103⟩, []⟩,
   ⟨⟨0x0006, 0x0000, 0x0000, 0x0000, 0x0000, 0x0100⟩, [], [0xEA, 0x00, 0x30], ⟨0x0006, 0x0000, 0x0000, 0x0000, 0x0000, 0x3000⟩, []⟩,
   ⟨⟨0x0082, 0x0000, 0x0000, 0x0000, 0x0000, 0x0100⟩, [], [0xF2, 0x00, 0x30], ⟨0x0082, 0x0000, 0x0000, 0x0000, 0x0000, 0x0103⟩, []⟩,
   ⟨⟨0x0082, 0x0000, 0x0000, 0x0000, 0x0000, 0x0100⟩, [], [0xFA, 0x00, 0x30], ⟨0x0082, 0x0000, 0x0000, 0x0000, 0x0000, 0x3000⟩, []⟩,
   ⟨⟨0x0002, 0x0000, 0x0000, 0x0000, 0x2400, 0x0100⟩, [], [0xCD, 0x00, 0x30], ⟨0x0002, 0x0000, 0x0000, 0x0000, 0x23FE, 0x3000⟩, [(0x23FE, 0x03), (0x23FF, 0x01)]⟩,
   ⟨⟨0x0002, 0x0000, 0x0000, 0x0000, 0x0001, 0x0100⟩, [], [0xCD, 0x00, 0x30], ⟨0x0002, 0x0000, 0x0000, 0x0000, 0xFFFF, 0x3000⟩, [(0xFFFF, 0x03), (0x0000, 0x01)]⟩] ++
  [⟨⟨0x0002, 0x0000, 0x0000, 0x0000, 0x2400, 0x0100⟩, [], [0xD4, 0x00, 0x30], ⟨0x0002, 0x0000, 0x0000, 0x0000, 0x23FE, 0x3000⟩, [(0x23FE, 0x03), (0x23FF, 0x01)]⟩,
   ⟨⟨0x0003, 0x0000, 0x0000, 0x0000, 0x2400, 0x0100⟩, [], [0xD4, 0x00, 0x30], ⟨0x0003, 0x0000, 0x0000, 0x0000, 0x2400, 0x0103⟩, [(0x23FE, 0x00), (0x23FF, 0x00)]⟩,
   ⟨⟨0x0082, 0x0000, 0x0000, 0x0000, 0x2400, 0x0100⟩, [], [0xFC, 0x00, 0x30], ⟨0x0082, 0x0000, 0x0000, 0x0000, 0x23FE, 0x3000⟩, [(0x23FE, 0x03), (0x23FF, 0x01)]⟩,
   ⟨⟨0x0002, 0x0000, 0x0000, 0x0000, 0x23FE, 0x0100⟩, [(0x23FE, 0x03), (0x23FF, 0x01)], [0xC9], ⟨0x0002, 0x0000, 0x0000, 0x0000, 0x2400, 0x0103⟩, []⟩,
   ⟨⟨0x0082, 0x0000, 0x0000, 0x0000, 0x23FE, 0x0100⟩, [(0x23FE, 0x03), (0x23FF, 0x01)], [0xF8], ⟨0x0082, 0x0000, 0x0000, 0x0000, 0x2400, 0x0103⟩, []⟩,
   ⟨⟨0x0002, 0x0000, 0x0000, 0x0000, 0x23FE, 0x0100⟩, [(0x23FE, 0x03), (0x23FF, 0x01)], [0xF8], ⟨0x0002, 0x0000, 0x0000, 0x0000, 0x23FE, 0x0101⟩, []⟩,
   ⟨⟨0x0002, 0x0000, 0x0000, 0x0000, 0x23FE, 0x0100⟩, [(0x23FE, 0x03), (0x23FF, 0x01)], [0xE0], ⟨0x0002, 0x0000, 0x0000, 0x0000, 0x2400, 0x0103⟩, []⟩,
   ⟨⟨0x0002, 0x0000, 0x0000, 0x0000, 0x2400, 0x0150⟩, [], [0xEF], ⟨0x0002, 0x0000, 0x0000, 0x0000, 0x23FE, 0x0028⟩, [(0x23FE, 0x51), (0x23FF, 0x01)]⟩,
   ⟨⟨0x0002, 0x0000, 0x0000, 0x0000, 0x2400, 0x0100⟩, [], [0xFF], ⟨0x0002, 0x0000, 0x0000, 0x0000, 0x23FE, 0x0038⟩, [(0x23FE, 0x01), (0x23FF, 0x01)]⟩,
   ⟨⟨0x0002, 0x0000, 0x0000, 0x0000, 0x2400, 0x0100⟩, [], [0xC7], ⟨0x0002, 0x0000, 0x0000, 0x0000, 0x23FE, 0x0000⟩, [(0x23FE, 0x01), (0x23FF, 0x01)]⟩,
   ⟨⟨0x0002, 0x0000, 0x0000, 0x4000, 0x0000, 0x0100⟩, [], [0xE9], ⟨0x0002, 0x0000, 0x0000, 0x4000, 0x0000, 0x4000⟩, []⟩,
   ⟨⟨0x0002, 0x0000, 0x0000, 0x0000, 0x0000, 0xFFFF⟩, [], [0x00], ⟨0x0002, 0x0000, 0x0000, 0x0000, 0x0000, 0x0000⟩, []⟩]

theorem test_control : (controlVectors.all StepVector.holds) = true := by decide +kernel

/-- V170 to V186 of 95_test_vectors.md (45_stack_io_control.md). -/
def stackVectors : List StepVector :=
  [⟨⟨0x0002, 0x1234, 0x0000, 0x0000, 0x2400, 0x0100⟩, [], [0xC5], ⟨0x0002, 0x1234, 0x0000, 0x0000, 0x23FE, 0x0101⟩, [(0x23FE, 0x34), (0x23FF, 0x12)]⟩,
   ⟨⟨0x5A06, 0x0000, 0x0000, 0x0000, 0x2400, 0x0100⟩, [], [0xF5], ⟨0x5A06, 0x0000, 0x0000, 0x0000, 0x23FE, 0x0101⟩, [(0x23FE, 0x06), (0x23FF, 0x5A)]⟩,
   ⟨⟨0x0002, 0x0000, 0x0000, 0x0000, 0x2400, 0x0100⟩, [], [0xF5], ⟨0x0002, 0x0000, 0x0000, 0x0000, 0x23FE, 0x0101⟩, [(0x23FE, 0x02), (0x23FF, 0x00)]⟩,
   ⟨⟨0x0002, 0x0000, 0x0000, 0x0000, 0x23FE, 0x0100⟩, [(0x23FE, 0x34), (0x23FF, 0x12)], [0xD1], ⟨0x0002, 0x0000, 0x1234, 0x0000, 0x2400, 0x0101⟩, []⟩,
   ⟨⟨0x0002, 0x0000, 0x0000, 0x0000, 0x23FE, 0x0100⟩, [(0x23FE, 0xFF), (0x23FF, 0x12)], [0xF1], ⟨0x12D7, 0x0000, 0x0000, 0x0000, 0x2400, 0x0101⟩, []⟩,
   ⟨⟨0x0002, 0x0000, 0x0000, 0x0000, 0x23FE, 0x0100⟩, [(0x23FE, 0x00), (0x23FF, 0x12)], [0xF1], ⟨0x1202, 0x0000, 0x0000, 0x0000, 0x2400, 0x0101⟩, []⟩,
   ⟨⟨0x0002, 0x0000, 0x0000, 0x0000, 0x23FE, 0x0100⟩, [(0x23FE, 0x28), (0x23FF, 0x99)], [0xF1], ⟨0x9902, 0x0000, 0x0000, 0x0000, 0x2400, 0x0101⟩, []⟩,
   ⟨⟨0x0002, 0x0000, 0x0000, 0x0000, 0xFFFF, 0x0100⟩, [(0xFFFF, 0xCD), (0x0000, 0xAB)], [0xE1], ⟨0x0002, 0x0000, 0x0000, 0xABCD, 0x0001, 0x0101⟩, []⟩,
   ⟨⟨0x0002, 0x0000, 0x0000, 0x1234, 0x2000, 0x0100⟩, [(0x2000, 0xAA), (0x2001, 0xBB)], [0xE3], ⟨0x0002, 0x0000, 0x0000, 0xBBAA, 0x2000, 0x0101⟩, [(0x2000, 0x34), (0x2001, 0x12)]⟩,
   ⟨⟨0x0002, 0x0000, 0x0000, 0x0000, 0x0000, 0x0100⟩, [], [0xDB, 0x10], ⟨0xFF02, 0x0000, 0x0000, 0x0000, 0x0000, 0x0102⟩, []⟩,
   ⟨⟨0x4102, 0x0000, 0x0000, 0x0000, 0x0000, 0x0100⟩, [], [0xD3, 0x10], ⟨0x4102, 0x0000, 0x0000, 0x0000, 0x0000, 0x0102⟩, []⟩,
   ⟨⟨0x0002, 0x0000, 0x0000, 0x0000, 0x0000, 0x0100⟩, [(0x1010, 0x33)], [0xDB, 0x10], ⟨0xFF02, 0x0000, 0x0000, 0x0000, 0x0000, 0x0102⟩, []⟩]

theorem test_stack : (stackVectors.all StepVector.holds) = true := by decide +kernel
/-- The registers after reset with `pc` at `0x0100`, and with `SP` at `0x2400`. -/
def regs0 : Regs := ⟨0x0002, 0x0000, 0x0000, 0x0000, 0x0000, 0x0100⟩
def regsSp : Regs := ⟨0x0002, 0x0000, 0x0000, 0x0000, 0x2400, 0x0100⟩

/-- What a step's next state shows: registers, `interrupts_enabled`, `halted`, and bytes of memory. -/
def shows (o : Out) (regs : Regs) (enabled halted : Bool) (bytes : List (Nat × Byte)) : Bool :=
  match o with
  | .next t => t.regs == regs && t.interruptsEnabled == enabled && t.halted == halted &&
      bytes.all fun c => t.peek false (BitVec.ofNat 16 c.1) == some c.2
  | _ => false

/-- V179 to V181: `EI` sets, `DI` clears. -/
theorem test_ei_di :
    shows (step (bench {} regs0 [(0x0100, 0xFB)] noCards)) ⟨0x0002, 0, 0, 0, 0, 0x0101⟩ true false [] = true ∧
    shows (step { bench {} regs0 [(0x0100, 0xF3)] noCards with interruptsEnabled := true })
      ⟨0x0002, 0, 0, 0, 0, 0x0101⟩ false false [] = true ∧
    shows (step { bench {} regs0 [(0x0100, 0xFB)] noCards with interruptsEnabled := true })
      ⟨0x0002, 0, 0, 0, 0, 0x0101⟩ true false [] = true := by decide +kernel

/-- V182, V183: `HLT`, after which a step changes nothing. -/
theorem test_hlt :
    shows (step (bench {} regs0 [(0x0100, 0x76), (0x0101, 0x3C)] noCards)) ⟨0x0002, 0, 0, 0, 0, 0x0101⟩ false true [] = true ∧
    shows (step { bench {} ⟨0x0002, 0, 0, 0, 0, 0x0101⟩ [(0x0101, 0x3C)] noCards with halted := true })
      ⟨0x0002, 0, 0, 0, 0, 0x0101⟩ false true [] = true := by decide +kernel

/-- V190 to V201: the twelve bytes fault with `pc` past the byte. -/
theorem test_undefined : (undefinedOpcodes.all fun op =>
    match step (bench {} regs0 [(0x0100, op)] noCards) with
    | .fault (.unknownOpcode op' t) =>
      op' == op && t == bench {} { regs0 with pc := 0x0101 } [(0x0100, op)] noCards
    | _ => false) = true := by decide +kernel

/-- X2 and X3: the first step of the flat machine and of the empty bus. -/
theorem test_first_step :
    shows (step (flatMachine {})) ⟨0x0002, 0, 0, 0, 0, 0x0001⟩ false false [] = true ∧
    shows (step State.reset) ⟨0x0002, 0, 0, 0, 0xFFFE, 0x0038⟩ false false [(0xFFFE, 0xFF), (0xFFFF, 0xFF)] = true := by
  decide +kernel

/-- The host's placement runs the placed instruction as the first one after reset. -/
theorem test_withFetchWord :
    shows (step (State.reset.withFetchWord 16 0x423E)) ⟨0x4202, 0, 0, 0, 0, 0x0002⟩ false false [] = true ∧
    shows (step (State.reset.withFetchWord 24 0x1234C3)) ⟨0x0002, 0, 0, 0, 0, 0x1234⟩ false false [] = true := by decide +kernel

/-! ## Bus (M rows) -/

/-- A data card over `bytes` from its start. -/
def dataSlot (start : Word) (range : Nat) (locked allow : Bool) (fill : Byte) (bytes : List Byte) : Slot where
  card := .data { startAdr := start, adrRange := range, isIo := false, writeLocked := locked, fill := fill,
                  mem := Memory.ofBytes fill bytes }
  allowConflict := allow

/-- A machine with these cards in the first slots. -/
def withCards (cards : List (Option Slot)) : State :=
  { State.reset with slots := cards ++ List.replicate (18 - cards.length) none }

/-- The bus of M1 to M9. -/
def busM : State :=
  withCards [some (dataSlot 0x0000 0x1000 false false 0xE5 []), some (dataSlot 0xF000 0x1000 true false 0xE5 [0xC3, 0x00, 0xF8])]

/-- The byte a bus read gives, if it completes. -/
def readsAs (a : Word) (io : Bool) (s : State) : Option Byte :=
  match busRead a io s with
  | .ok (v, _) => some v
  | .error _ => none

/-- The state after a bus write, or the state itself if the write faults. -/
def written (a : Word) (v : Byte) (io : Bool) (s : State) : State :=
  match busWrite a v io s with
  | .ok (_, t) => t
  | .error _ => s

/-- M1 to M6. -/
theorem test_bus_reads : readsAs 0x8000 false busM = some 0xFF ∧ written 0x8000 0x12 false busM = busM ∧
    readsAs 0xF000 false busM = some 0xC3 ∧ readsAs 0xF002 false busM = some 0xF8 ∧ readsAs 0xF003 false busM = some 0xE5 ∧
    written 0xF003 0x55 false busM = busM ∧ readsAs 0x0010 false (written 0x0010 0x77 false busM) = some 0x77 ∧
    readsAs 0x0011 false (written 0x0010 0x77 false busM) = some 0xE5 := by decide +kernel

theorem test_bus_force : (match busWriteForce 0xF003 0x55 false busM with
    | .ok (_, t) => readsAs 0xF003 false t == some 0x55
    | .error _ => false) = true := by decide +kernel

/-- M7 to M9. -/
theorem test_insert_errors :
    insertCard (some (dataSlot 0x0800 0x1000 false false 0 []).card) 2 false busM = .error .conflict ∧
    insertCard (some (dataSlot 0x2000 0x100 false false 0 []).card) 0 false busM = .error .slotOccupied ∧
    insertCard (some (dataSlot 0x2000 0x100 false false 0 []).card) 18 false busM = .error .outOfRange ∧
    (∃ t, insertCard (some (dataSlot 0x2000 0x100 false false 0 []).card) 17 false busM = .ok t) :=
  ⟨rfl, rfl, rfl, _, rfl⟩

/-- M10 to M13: every card is written, the lowest slot answers. -/
theorem test_overlap :
    written 0x1090 0xAB false (withCards [none, none, none, some (dataSlot 0x1000 0x100 false true 0 []), none,
        some (dataSlot 0x1080 0x100 false false 0 [])]) =
      withCards [none, none, none, some (dataSlot 0x1000 0x100 false true 0 (List.replicate 0x90 0 ++ [0xAB])), none,
        some (dataSlot 0x1080 0x100 false false 0 (List.replicate 0x10 0 ++ [0xAB]))] ∧
    readsAs 0x1090 false (withCards [none, none, none, some (dataSlot 0x1080 0x100 false false 0 (List.replicate 0x10 0x22 ++ [0x22])),
      none, some (dataSlot 0x1000 0x100 false true 0 (List.replicate 0x91 0x11))]) = some 0x22 := by decide +kernel

/-- ROM over RAM (M13). -/
def romFirst : State := withCards [some (dataSlot 0x0000 0x100 true true 0 [0xAA]), some (dataSlot 0x0000 0x100 false false 0 [])]

theorem test_rom_over_ram : readsAs 0x0000 false (written 0x0000 0x99 false romFirst) = some 0xAA ∧
    written 0x0000 0x99 false romFirst =
      withCards [some (dataSlot 0x0000 0x100 true true 0 [0xAA]), some (dataSlot 0x0000 0x100 false false 0 [0x99])] := by decide +kernel

/-- A serial card just constructed, in port space at `0x0010`. -/
def acia (rx : List RxReply) : SerialCard := SerialCard.construct 0x0010 true rx []

def aciaSlot (c : SerialCard) : Option Slot := some { card := .serial c, allowConflict := false }

/-- M14, M15: two spaces, partial decode. -/
theorem test_spaces :
    let s := bench {} regs0 [(0x1010, 0x33)] (aciaSlot (acia []) :: List.replicate 16 none)
    let m := withCards [aciaSlot (SerialCard.construct 0xC010 false [] [])]
    readsAs 0x1010 false s = some 0x33 ∧ readsAs 0x1010 true s = some 0x02 ∧ readsAs 0x3410 true s = some 0x02 ∧
    readsAs 0x1012 true s = some 0xFF ∧ readsAs 0xC010 false m = some 0x02 ∧ readsAs 0x0010 false m = some 0x02 ∧
    readsAs 0xFF10 false m = some 0x02 ∧ readsAs 0xC012 false m = some 0xFF := by decide +kernel

/-- Property 9 of the source: the serial card conflicts with RAM only in the memory space. -/
theorem test_serial_insert :
    let s := withCards [some (dataSlot 0x0000 0x1000 false false 0 []), some (dataSlot 0x1000 0x1000 false false 0 []),
      some (dataSlot 0xF000 0x1000 true false 0 [])]
    (∃ t, insertCard (some (.serial (SerialCard.construct 0x0010 true [] []))) 3 false s = .ok t) ∧
    insertCard (some (.serial (SerialCard.construct 0x0010 false [] []))) 3 false s = .error .conflict ∧
    insertCard (some (.serial (SerialCard.construct 0x00FF true [] []))) 3 false s = .error .invalidArgument :=
  ⟨⟨_, rfl⟩, rfl, rfl⟩

/-! ## Serial card (A rows) -/

/-- The card after A3: `0x61` received, `0x62` still queued, `0x41` sent. -/
def cardA3 : SerialCard :=
  { acia [.byte 0x62] with status := 0x03, rxData := 0x61, txData := 0x41, log := [.put 0x41] }

/-- A1 to A5. -/
theorem test_acia_data :
    (acia []).read {} 0x1010 = .ok (0x02, acia []) ∧
    (acia []).write 0x1111 0x41 = .ok { acia [] with txData := 0x41, log := [.put 0x41] } ∧
    ({ acia [.byte 0x61, .byte 0x62] with txData := 0x41, log := [.put 0x41] } : SerialCard).read {} 0x1010 = .ok (0x03, cardA3) ∧
    cardA3.read {} 0x1111 = .ok (0x61, cardA3) := ⟨rfl, rfl, rfl, rfl⟩

/-- A6 to A9: the control fields. -/
theorem test_acia_control :
    cardA3.write 0x1010 0x95 = .ok { cardA3 with status := 0x83 } ∧
    ({ cardA3 with status := 0x83 } : SerialCard).write 0x1010 0x15 = .ok { cardA3 with control := 0x15 } ∧
    cardA3.write 0x1010 0x4A = .ok { cardA3 with divisor := .div64, format := ⟨.seven, .even, .one⟩, rts := 0, control := 0x4A } ∧
    cardA3.write 0x1010 0x60 = .ok { cardA3 with
      divisor := .div1, format := ⟨.seven, .even, .two⟩, rts := 1, control := 0x60, log := [.put 0x41, .sendBreak] } :=
  ⟨rfl, rfl, rfl, rfl⟩

/-- A10, A12, A14: the master reset, after the poll. -/
theorem test_acia_master_reset :
    cardA3.write 0x1010 0x03 = .ok { cardA3 with
      status := 0x02, rxData := 0x00, txData := 0x00, format := ⟨.seven, .even, .two⟩, control := 0x03 } ∧
    cardA3.write 0x1010 0x83 = .ok { cardA3 with
      status := 0x82, rxData := 0x00, txData := 0x00, format := ⟨.seven, .even, .two⟩, control := 0x83 } ∧
    (acia [.byte 0x7A, .byte 0x7B]).write 0x1010 0x03 = .ok { acia [.byte 0x7B] with
      format := ⟨.seven, .even, .two⟩, control := 0x03 } := ⟨rfl, rfl, rfl⟩

/-- A13, A15, A16: a write polls first; the parameter clears `RDRF`; the reset value of `RX_DATA`. -/
theorem test_acia_poll :
    (acia [.byte 0x7A]).write 0x1111 0x21 = .ok { acia [] with
      status := 0x03, rxData := 0x7A, txData := 0x21, log := [.put 0x21] } ∧
    ({ acia [.byte 0x62] with status := 0x03, rxData := 0x61 } : SerialCard).read { aciaRdrfClearOnRead := true } 0x1111 =
      .ok (0x61, { acia [.byte 0x62] with rxData := 0x61 }) ∧
    (acia []).read {} 0x1111 = .ok (0x00, acia []) ∧
    (acia [.idle, .byte 0x01]).read {} 0x1010 = .ok (0x02, acia [.byte 0x01]) := ⟨rfl, rfl, rfl, rfl⟩

/-- An endpoint that fails stops the step with its fault, from `IN` and from `OUT` (60_exceptions.md R265). -/
theorem test_endpoint_faults :
    (match step (bench {} regs0 [(0x0100, 0xDB), (0x0101, 0x10)] (aciaSlot (acia [.fail]) :: List.replicate 16 none)) with
      | .fault (.endpointIoError t) => t.get8 .a == 0x00 && t.get16 .pc == 0x0102
      | _ => false) = true ∧
    (match step (bench {} regs0 [(0x0100, 0xD3), (0x0101, 0x11)]
        (aciaSlot { acia [] with txFail := [true] } :: List.replicate 16 none)) with
      | .fault (.endpointIoError t) => t.get16 .pc == 0x0102
      | _ => false) = true := by decide +kernel

/-- Program P4, steps 8 and 10: `IN` of the received byte, `OUT` of its upper case. -/
theorem test_serial_ports :
    shows (step (bench {} regs0 [(0x0100, 0xDB), (0x0101, 0x11)]
      (aciaSlot { acia [] with status := 0x03, rxData := 0x62 } :: List.replicate 16 none)))
      ⟨0x6202, 0, 0, 0, 0, 0x0102⟩ false false [] = true ∧
    step (bench {} { regs0 with af := 0x4206 } [(0x0100, 0xD3), (0x0101, 0x11)] (aciaSlot (acia []) :: List.replicate 16 none)) =
      .next (bench {} ⟨0x4206, 0, 0, 0, 0, 0x0102⟩ [(0x0100, 0xD3), (0x0101, 0x11)]
        (aciaSlot { acia [] with txData := 0x42, log := [.put 0x42] } :: List.replicate 16 none)) := ⟨by decide +kernel, rfl⟩

/-- The flat-array bus variant has no port I/O (60_exceptions.md R264). -/
theorem test_flat_array :
    (match step (bench { flatArrayBus := true } regs0 [(0x0100, 0xDB), (0x0101, 0x10)] noCards) with
      | .fault (.unsupportedPortIo t) => t.get16 .pc == 0x0102
      | _ => false) = true := by decide +kernel

/-! ## Interrupts (I rows) -/

/-- An `Other` card at port `0xFE` that keeps its request up and supplies `inst`. -/
def irqSlot (inst : IrqInst) : Option Slot :=
  some { card := .other { startAdr := 0xFEFE, adrRange := 1, isIo := true, irq := true, inst := inst, idle := 0xFF, replies := [] }
         allowConflict := false }

/-- After `EI` at `0x0100`, with that card in slot 4. -/
def afterEi (p : Params) (inst : IrqInst) : State :=
  { bench p { regsSp with pc := 0x0101 } [(0x0100, 0xFB)] ([none, none, none, irqSlot inst] ++ List.replicate 13 none) with
    interruptsEnabled := true }

/-- I1, I2, I3, I8: acceptance runs the card's instruction. -/
theorem test_accept :
    shows (step (afterEi {} ⟨0xD7, 0, 0⟩)) ⟨0x0002, 0, 0, 0, 0x23FC, 0x0010⟩ false false
      [(0x23FC, 0x01), (0x23FD, 0x01), (0x23FE, 0x01), (0x23FF, 0x01)] = true ∧
    shows (step (afterEi {} ⟨0xCD, 0x00, 0x30⟩)) ⟨0x0002, 0, 0, 0, 0x23FC, 0x3000⟩ false false
      [(0x23FC, 0x01), (0x23FD, 0x01), (0x23FE, 0x01), (0x23FF, 0x01)] = true ∧
    shows (step (afterEi { irqAcceptPushesPc := false } ⟨0xD7, 0, 0⟩)) ⟨0x0002, 0, 0, 0, 0x23FE, 0x0010⟩ false false
      [(0x23FC, 0x00), (0x23FD, 0x00), (0x23FE, 0x01), (0x23FF, 0x01)] = true ∧
    shows (step (afterEi {} ⟨0x3E, 0x55, 0⟩)) ⟨0x5502, 0, 0, 0, 0x23FE, 0x0101⟩ false false
      [(0x23FE, 0x01), (0x23FF, 0x01)] = true := by decide +kernel

/-- I4: a request is not taken while interrupts are disabled. -/
theorem test_not_accepted :
    shows (step { afterEi {} ⟨0xD7, 0, 0⟩ with interruptsEnabled := false }) ⟨0x0002, 0, 0, 0, 0x2400, 0x0102⟩ false false [] =
      true := by decide +kernel

/-- I6, I6w: an accepted interrupt leaves `halted` as it is unless `IRQ_WAKES_HALT`. -/
theorem test_accept_halted :
    shows (step { afterEi {} ⟨0xD7, 0, 0⟩ with halted := true }) ⟨0x0002, 0, 0, 0, 0x23FC, 0x0010⟩ false true [] = true ∧
    shows (step { afterEi { irqWakesHalt := true } ⟨0xD7, 0, 0⟩ with halted := true }) ⟨0x0002, 0, 0, 0, 0x23FC, 0x0010⟩
      false false [] = true := by decide +kernel

/-- I7: an undefined byte from a card. -/
theorem test_accept_undefined : (match step (afterEi {} ⟨0xDD, 0, 0⟩) with
    | .fault (.unknownOpcode op t) => op == 0xDD && t.get16 .sp == 0x23FE && t.get16 .pc == 0x0101 && !t.interruptsEnabled &&
        t.peek false 0x23FE == some 0x01 && t.peek false 0x23FF == some 0x01
    | _ => false) = true := by decide +kernel

/-- I9, I10. -/
theorem test_get_irq : busGetIrq (flatMachine {}) = .error .noIrq ∧
    busGetIrq (withCards [none, none, irqSlot ⟨0xD7, 0, 0⟩, none, none, none, none, irqSlot ⟨0xCF, 0, 0⟩]) =
      .ok ⟨0xD7, 0, 0⟩ := ⟨rfl, rfl⟩

/-- I1 through the run loop: one cycle is `EI` and then the acceptance; the request stays up and no second one is taken. -/
theorem test_cycle : (match cycle 2 (bench {} regsSp [(0x0100, 0xFB)] ([none, none, none, irqSlot ⟨0xD7, 0, 0⟩] ++
      List.replicate 13 none)) with
    | some o => shows o ⟨0x0002, 0, 0, 0, 0x23FC, 0x0010⟩ false false [(0x23FF, 0x01)]
    | none => false) = true := by decide +kernel

/-! ## Shim, loader, reset (BD, L, X rows) -/

/-- At the shim's entry with `C` = `c` and `DE` = `0x0115`, where `HI$` stands; the return address is `0x010B`. -/
def atBdos (c : Byte) : State :=
  bench { pseudoBdos := true } ⟨0x0002, pair 0x00 c, 0x0115, 0x0000, 0x23FE, 0x0005⟩
    [(0x23FE, 0x0B), (0x23FF, 0x01), (0x0115, 0x48), (0x0116, 0x49), (0x0117, 0x24)] noCards

/-- P6 steps 6 and 10 (with `E` = `0x15`), BD2. -/
theorem test_bdos :
    (match step (atBdos 0x09) with
      | .next t => t.sink == [0x48, 0x49] && t.regs == ⟨0x0002, 0x0009, 0x0115, 0, 0x2400, 0x010B⟩
      | _ => false) = true ∧
    (match step (atBdos 0x02) with
      | .next t => t.sink == [0x15] && t.regs == ⟨0x0002, 0x0002, 0x0115, 0, 0x2400, 0x010B⟩
      | _ => false) = true ∧
    (match step (atBdos 0x01) with
      | .fault (.invalidBdosCall c t) => c == 0x01 && t == atBdos 0x01
      | _ => false) = true := by decide +kernel

/-- P6 steps 1 and 12: the first and a later visit to address 0. -/
theorem test_warm_boot :
    (match step (bench { pseudoBdos := true } ⟨0x0002, 0, 0, 0, 0, 0x0000⟩ [(0, 0xC3), (2, 0x01)] noCards) with
      | .next t => t.get16 .pc == 0x0100 && !t.justBooted
      | _ => false) = true ∧
    shows (step { bench { pseudoBdos := true } ⟨0x0002, 0, 0, 0, 0, 0x0000⟩ [(0, 0xC3), (2, 0x01)] noCards with justBooted := false })
      ⟨0x0002, 0, 0, 0, 0, 0x0001⟩ false true [(0, 0x76), (1, 0x00), (2, 0x01)] = true := by decide +kernel

/-- BD3: without the shim the byte at `0x0005` is an instruction. -/
theorem test_no_bdos :
    shows (step (bench {} ⟨0x0002, 0, 0, 0, 0x23FE, 0x0005⟩ [(0x0005, 0xC9), (0x23FE, 0x08), (0x23FF, 0x01)] noCards))
      ⟨0x0002, 0, 0, 0, 0x2400, 0x0108⟩ false false [] = true := by decide +kernel

/-- What a load leaves at these addresses, if it succeeds. -/
def loadShows (r : Except LoadError State) (bytes : List (Word × Byte)) : Bool :=
  match r with
  | .ok t => bytes.all fun c => t.peek false c.1 == some c.2
  | .error _ => false

/-- L1, L4, L6, L7. -/
theorem test_load :
    loadShows (load [0x3E, 0x42, 0x76] 0x0100 true (flatMachine {}))
      [(0, 0xC3), (1, 0x00), (2, 0x01), (0x0100, 0x3E), (0x0101, 0x42), (0x0102, 0x76)] = true ∧
    loadShows (load [0x00] 0xFFFF false (flatMachine {})) [(0xFFFF, 0x00)] = true ∧
    loadShows (load [0x00] 3 true (flatMachine {})) [(0, 0xC3), (1, 0x03), (2, 0x00), (3, 0x00)] = true ∧
    loadShows (load [0x76] 0x0010 false (withCards [some (dataSlot 0x0000 0x100 true false 0 [])])) [(0x0010, 0x76)] = true := by
  decide +kernel

/-- L2, L3, L5. -/
theorem test_load_errors :
    load [] 0 false (flatMachine {}) = .error (.host .invalidArgument) ∧
    load [0, 0] 0xFFFF false (flatMachine {}) = .error (.host .outOfRange) ∧
    load [0] 2 true (flatMachine {}) = .error (.host .outOfRange) := ⟨rfl, rfl, rfl⟩

/-- X1: a CPU reset from a state where everything differs. -/
theorem test_cpu_clear :
    cpuClear { afterEi { startPc := 0x0100 } ⟨0xD7, 0, 0⟩ with halted := true, justBooted := false, irqQueue := [0x01] } =
      { afterEi { startPc := 0x0100 } ⟨0xD7, 0, 0⟩ with
        regs := regs0, halted := false, interruptsEnabled := false, justBooted := true, irqQueue := [] } := rfl

/-- `bus.clear()`: RAM is zeroed, ROM kept, the serial card reset (20_memory.md R46, 70_reset_and_hazards.md R301). -/
theorem test_bus_clear :
    busClear (withCards [some (dataSlot 0x0000 0x4 false false 0 [1, 2]), some (dataSlot 0x1000 0x4 true false 0 [3]),
      aciaSlot cardA3]) =
    withCards [some (dataSlot 0x0000 0x4 false false 0 []), some (dataSlot 0x1000 0x4 true false 0 [3]),
      aciaSlot { acia [.byte 0x62] with log := [.put 0x41] }] := rfl

/-- A data card whose image is longer than its range is refused (20_memory.md R46). -/
theorem test_construct : DataCard.construct 0 1 false false [1, 2] 0 = .error .invalidArgument ∧
    (∃ c, DataCard.construct 0 2 false false [1, 2] 0 = .ok c) := ⟨rfl, _, rfl⟩

/-! ## Witnesses: every hypothesis of the statements is met, and every clause at the edge of its range -/

/-- A machine with every kind of card: RAM, a serial card with a byte waiting, ROM under the RAM, an `Other` card. -/
def wit (p : Params) (regs : Regs) (bytes : List (Nat × Byte)) : State :=
  bench p regs bytes ([aciaSlot { acia [.byte 0x61, .idle] with txFail := [false] }, some (dataSlot 0xF000 0x10 true true 0 [0xAA]),
    none, irqSlot ⟨0xD7, 0, 0⟩] ++ List.replicate 13 none)

theorem wit_healthy (p : Params) (regs : Regs) (bytes : List (Nat × Byte)) : (wit p regs bytes).healthy := by
  intro sl h
  simp only [wit, bench, List.cons_append, List.nil_append, List.mem_cons, List.mem_replicate, aciaSlot, irqSlot,
    reduceCtorEq, and_false, or_false, false_or, Option.some.injEq] at h
  rcases h with rfl | rfl | rfl | rfl
  · trivial
  · exact ⟨by decide, by decide⟩
  · trivial
  · trivial

/-- Hypotheses of `StepKeepsInvariant` and `StepKeepsConfigurationAndRom`: a legal state whose step completes. -/
theorem witness_invariant : (wit {} regs0 [(0x0100, 0x34)]).Inv ∧ ∃ t, step (wit {} regs0 [(0x0100, 0x34)]) = .next t := by
  refine ⟨⟨(rfl : State.getF _ &&& 0x2A = 0x02), rfl, ?_, rfl⟩, _, rfl⟩
  intro sl h
  simp only [wit, bench, List.cons_append, List.nil_append, List.mem_cons, List.mem_replicate, aciaSlot, irqSlot,
    reduceCtorEq, and_false, or_false, false_or, Option.some.injEq] at h
  rcases h with rfl | rfl | rfl | rfl
  · simp only [Card.legal, flatRam]; decide
  · simp only [Card.legal, SerialCard.statusLegal]; decide
  · simp only [Card.legal, dataSlot]; decide
  · trivial

/-- Hypotheses of `DecodeEncode` and `EncodeDecode`. -/
theorem witness_encoding : Instr.wf (.lxiSp 0xFFFF) = true ∧ Instr.wf (.undefinedOpcode 0xFD) = true ∧
    decode [0x31, 0xFF, 0xFF, 0x00] = .ok (.lxiSp 0xFFFF, [0x00]) := ⟨rfl, rfl, rfl⟩

/-- Hypotheses of `StepRunsDecodedInstruction`, with the instruction's bytes across the top of memory, without and with the
shim. -/
theorem witness_step :
    (wit {} ⟨0x0002, 0, 0, 0, 0, 0xFFFF⟩ [(0xFFFF, 0xC3), (0, 0x34), (1, 0x12)]).plainFetch ∧
    bytesAt (wit {} ⟨0x0002, 0, 0, 0, 0, 0xFFFF⟩ [(0xFFFF, 0xC3), (0, 0x34), (1, 0x12)]) 0xFFFF [0xC3, 0x34, 0x12] ∧
    decode [0xC3, 0x34, 0x12] = .ok (.jmp 0x1234, []) ∧
    (wit { pseudoBdos := true } regs0 []).plainFetch :=
  ⟨⟨rfl, rfl, rfl, .inl rfl⟩, ⟨by decide, by decide, by decide, trivial⟩, rfl, rfl, rfl, rfl,
    .inr ⟨by decide, by decide⟩⟩

/-- One byte of RAM, `op` at `0x24FD`, and after it a serial card at `0x??FE` in the memory space, whose polls answer `rx`. -/
def fetching (op : Byte) (rx : List RxReply) (pc : Word) : State :=
  { withCards [some (dataSlot 0x24FD 1 false true 0 [op]), aciaSlot (SerialCard.construct 0x00FE false rx [])] with
    regs := ⟨0x0002, 0, 0, 0, 0, pc⟩ }

/-- Hypotheses of the last clause of `StepRunsDecodedInstruction`: an operand that a serial card gives; the fetch of an opcode,
of an operand and of a second operand from a serial card whose endpoint fails. -/
theorem witness_step_card :
    (fetching 0x3E [.idle] 0x24FD).plainFetch ∧
    (∃ t, readsBytes [0x3E, 0x02] 0x24FD (fetching 0x3E [.idle] 0x24FD) t) ∧ decode [0x3E, 0x02] = .ok (.mviA 0x02, []) ∧
    (fetching 0x3E [.fail] 0x24FE).plainFetch ∧
    (∃ u, memRead 0x24FE (fetching 0x3E [.fail] 0x24FE) = .error (.endpointIoError u)) ∧
    (∃ t u, readsBytes [0x3E] 0x24FD (fetching 0x3E [.fail] 0x24FD) t ∧ decode [0x3E] = .error (.missingOperand 0x3E) ∧
      memRead 0x24FE t = .error (.endpointIoError u)) ∧
    (∃ t u, readsBytes [0xC3, 0x02] 0x24FD (fetching 0xC3 [.idle, .fail] 0x24FD) t ∧
      decode [0xC3, 0x02] = .error (.missingOperand 0xC3) ∧ memRead 0x24FF t = .error (.endpointIoError u)) :=
  ⟨⟨rfl, rfl, rfl, .inl rfl⟩, ⟨_, _, rfl, _, rfl, rfl⟩, rfl, ⟨rfl, rfl, rfl, .inl rfl⟩, ⟨_, rfl⟩,
    ⟨_, _, ⟨_, rfl, rfl⟩, rfl, rfl⟩, ⟨_, _, ⟨_, rfl, _, rfl, rfl⟩, rfl, rfl⟩⟩

/-- Hypotheses of `UndefinedOpcodesFault`: a fetch of such a byte, and an acceptance of it with and without the push. -/
theorem witness_undefined : 0xCB ∈ undefinedOpcodes ∧ (wit {} regs0 [(0x0100, 0xCB)]).plainFetch ∧
    (wit {} regs0 [(0x0100, 0xCB)]).peek false 0x0100 = some 0xCB ∧
    (∃ u, enterInterrupt ⟨0xCB, 0, 0⟩ (wit {} regsSp []) = .ok ((), u)) ∧ (wit {} regsSp []).healthy ∧
    (wit {} regsSp []).ramAt 0x23FE = true ∧ (wit {} regsSp []).ramAt 0x23FF = true ∧
    ∃ u, enterInterrupt ⟨0xCB, 0, 0⟩ (wit { irqAcceptPushesPc := false } regsSp []) = .ok ((), u) :=
  ⟨by decide, ⟨rfl, rfl, rfl, .inl rfl⟩, by decide, ⟨_, rfl⟩, wit_healthy _ _ _, by decide, by decide, _, rfl⟩

/-- Hypothesis `healthy` of the statements about memory, stack and ports, with `HL`, `SP` at the top of memory. -/
theorem witness_healthy : (wit {} ⟨0x0002, 0, 0, 0xFFFF, 0xFFFF, 0x0100⟩ []).healthy := wit_healthy _ _ _

/-- Hypotheses of `DecimalAddition`, at the largest decimal byte, and of `FlagsFrame`, `FlagByte` and `PushThenPop`. -/
theorem witness_decimal : isBcd (wit {} ⟨0x9902, 0, 0, 0, 0, 0⟩ []).acc ∧ isBcd 0x99 ∧ isBcd 0x00 ∧
    (wit {} ⟨0x9902, 0, 0, 0, 0, 0⟩ []).flagsMasked := by
  refine ⟨⟨?_, ?_⟩, ⟨?_, ?_⟩, ⟨?_, ?_⟩, (rfl : State.getF _ &&& 0x2A = 0x02)⟩ <;> decide

/-- Hypotheses of `Jumps`, `Calls` and `Returns`: each condition is true in one state and false in another. -/
theorem witness_conditions : ([Cond.nz, .nc, .po, .p].all fun cc =>
      (wit {} ⟨0x0002, 0, 0, 0, 0, 0⟩ []).cond cc && !(wit {} ⟨0x00D7, 0, 0, 0, 0, 0⟩ []).cond cc) = true ∧
    ([Cond.z, .c, .pe, .m].all fun cc =>
      !(wit {} ⟨0x0002, 0, 0, 0, 0, 0⟩ []).cond cc && (wit {} ⟨0x00D7, 0, 0, 0, 0, 0⟩ []).cond cc) = true := by decide

/-- Hypotheses of `CallThenReturn` and `PushThenPop`: RAM at both stack bytes, the stack wrapping at 0. -/
theorem witness_stack : let s := wit {} ⟨0x0002, 0, 0, 0, 0x0001, 0x0100⟩ []
    s.ramAt (s.get16 .sp - 2) = true ∧ s.ramAt (s.get16 .sp - 1) = true := by decide

/-- A serial card in the memory space at `0x??FE`, whose endpoint answers its polls with `rx`, behind RAM at `0x2300`. -/
def failing (rx : List RxReply) : State :=
  { withCards [some (dataSlot 0x2300 0x100 false true 0 []), aciaSlot (SerialCard.construct 0x00FE false rx [])] with regs := regsSp }

/-- Hypotheses of `PushAndPopPrimitives` and `FirstMatchingCardIsRead`: addresses no card answers, a first card that answers,
one whose endpoint fails. -/
theorem witness_unmapped : State.reset.unmapped false (State.reset.get16 .sp) ∧
    State.reset.unmapped false (State.reset.get16 .sp + 1) ∧
    (∃ pre sl post v c1, busM.slots = pre ++ some sl :: post ∧ (∀ x, some x ∈ pre → x.answers 0xF000 false = false) ∧
      sl.answers 0xF000 false = true ∧ sl.card.read busM.params 0xF000 = .ok (v, c1)) ∧
    ∃ pre sl post c1, (failing [.fail]).slots = pre ++ some sl :: post ∧
      (∀ x, some x ∈ pre → x.answers 0x24FF false = false) ∧ sl.answers 0x24FF false = true ∧
      sl.card.read (failing [.fail]).params 0x24FF = .error c1 := by
  have h : ∀ a, State.reset.unmapped false a := fun a sl hs => by
    simp only [State.reset, List.mem_replicate, reduceCtorEq, and_false] at hs
  refine ⟨h _, h _, ⟨[some (dataSlot 0x0000 0x1000 false false 0xE5 [])], _, _, _, _, rfl, ?_, by decide, rfl⟩,
    [some (dataSlot 0x2300 0x100 false true 0 [])], _, _, _, rfl, ?_, by decide, rfl⟩ <;>
  · intro x hx
    simp only [List.mem_singleton, Option.some.injEq] at hx
    subst hx; decide

/-- Hypotheses of `PushAndPopPrimitives`: the first and the second access of each fails. -/
theorem witness_push_pop_fail :
    (∃ u, memWrite (regsSp.sp - 2) (lo8 0x1234) (failing [.fail]) = .error (.endpointIoError u)) ∧
    (∃ s1 u, memWrite (regsSp.sp - 2) (lo8 0x1234) (failing [.idle, .fail]) = .ok ((), s1) ∧
      memWrite (regsSp.sp - 1) (hi8 0x1234) s1 = .error (.endpointIoError u)) ∧
    (∃ f, memRead 0x24FE (failing [.fail]) = .error f) ∧
    ∃ lo s1 f, memRead 0x24FE (failing [.idle, .fail]) = .ok (lo, s1) ∧ memRead (0x24FE + 1) s1 = .error f :=
  ⟨⟨_, rfl⟩, ⟨_, _, rfl, rfl⟩, ⟨_, rfl⟩, _, _, _, rfl, rfl⟩

/-- Hypotheses of `PortInputOutput`, `DefinedInstructionsComplete` and `ExecuteFaults`: both bus variants, each fault. -/
theorem witness_ports : (wit {} regs0 []).params.flatArrayBus = false ∧
    (wit { flatArrayBus := true } regs0 []).params.flatArrayBus = true ∧ Instr.defined (.inPort 0xFF) = true ∧
    (∀ p, Instr.nop ≠ .inPort p ∧ Instr.nop ≠ .outPort p) ∧
    exec (.undefinedOpcode 0x08) (wit {} regs0 []) = .fault (.unknownOpcode 0x08 (wit {} regs0 [])) ∧
    Instr.wf (.undefinedOpcode 0x08) = true ∧ (∃ f, exec .pushB (failing [.idle, .fail]) = .fault f) ∧
    (∃ f, exec (.outPort 0) (wit { flatArrayBus := true } regs0 []) = .fault f) ∧
    (∃ f, exec (.inPort 0x10) (withCards [aciaSlot (acia [.fail])]) = .fault f) :=
  ⟨rfl, rfl, rfl, fun _ => ⟨nofun, nofun⟩, rfl, rfl, ⟨_, rfl⟩, ⟨_, rfl⟩, _, rfl⟩

/-- Hypotheses of `InterruptEnableAndHalt` and `AcceptanceRunsCardInstruction`: a card that requests, a halted machine with
no acceptance, and an accepted instruction that completes, its operand at either end of its range. -/
theorem witness_acceptance :
    irqSlots ({} : Params) (askCards (wit {} regsSp [])).slots = some ⟨0xD7, 0, 0⟩ ∧
    boundaryCheck { wit {} regs0 [] with halted := true } = .go { wit {} regs0 [] with halted := true } ∧
    (∃ s1 t, enterInterrupt ⟨0xCD, 0xFF, 0x00⟩ (askCards (wit {} regsSp [])) = .ok ((), s1) ∧
      decode [0xCD, 0xFF, 0x00] = .ok (.call 0x00FF, []) ∧ exec (.call 0x00FF) { s1 with irqQueue := [] } = .next t) :=
  ⟨rfl, rfl, _, _, rfl, rfl, rfl⟩

/-- Hypotheses of the frames: an instruction of each kind completes, and each premise of their clauses holds of one. -/
theorem witness_frames : (∃ t, exec .inrM (wit {} regs0 []) = .next t) ∧ (∃ t, exec (.outPort 0x10) (wit {} regs0 []) = .next t) ∧
    (∃ t, exec .rlc (wit {} regs0 []) = .next t) ∧ writesSp .rlc = false ∧ writesPc .pushB = false ∧
    Flag.c ∉ flagsWritten .inrM ∧ Reg8.b ∉ regsWritten .rlc ∧ (Instr.rlc ≠ .hlt ∧ Instr.rlc ≠ .ei ∧ Instr.rlc ≠ .di) ∧
    (0xFFFF : Word) ∉ storesAt (wit {} regs0 []) .inrM ∧ (0x0001 : Word) ∉ storesAt (wit {} regs0 []) .inrM ∧
    ((0x1011 : Word) ≠ portAddr 0x10) :=
  ⟨⟨_, rfl⟩, ⟨_, rfl⟩, ⟨_, rfl⟩, rfl, rfl, by decide, by decide, ⟨nofun, nofun, nofun⟩, by decide, by decide, by decide⟩

/-- Hypotheses of `EveryMatchingCardIsWritten`: an empty slot, cards that answer and cards that do not, an address no card
answers, RAM and ROM cards at the ends of their ranges, and a failing card behind RAM that has been written. -/
theorem witness_written : let s := wit {} regs0 []
    s.slots[3]? = some none ∧
    (match s.slots[0]? with | some (some sl) => sl.answers 0xF00F false | _ => false) = true ∧
    (match s.slots[2]? with | some (some sl) => sl.answers 0xF00F false && !sl.answers 0xF010 false | _ => false) = true ∧
    (dataSlot 0xF000 0x10 false true 0 [0xAA]).answers 0xF000 false = true := by decide

theorem witness_written_fail : ∃ pre pre1 sl post c1, (failing [.fail]).slots = pre ++ some sl :: post ∧
    List.Forall₂ (WroteSlot false 0x23FE 0x55 false) pre pre1 ∧ sl.answers 0x23FE false = true ∧
    sl.card.write false 0x23FE 0x55 = .error c1 :=
  ⟨[some (dataSlot 0x2300 0x100 false true 0 [])], _, _, _, _, rfl, .cons (.wrote _ _ (by decide) rfl) .nil, by decide, rfl⟩

/-- Hypotheses of `WrittenByteIsRead`: RAM first at both ends of memory; ROM first. -/
theorem witness_ram : (wit {} regs0 []).ramAt 0x0000 = true ∧ (wit {} regs0 []).ramAt 0xFFFF = true ∧
    romFirst.ramAt 0x00FF = false ∧ romFirst.dataAt 0x00FF :=
  ⟨by decide, by decide, by decide, [], _, _, rfl, by simp, by decide, _, rfl⟩

/-- Hypotheses of `SlotRegistry`: 18 slots, the last slot and the one past it, a full slot, a card that conflicts and one that
does not. -/
theorem witness_registry : busM.slots.length = nSlots ∧ (18 : Nat) ≤ 18 ∧ (17 : Nat) < 18 ∧ busM.slots[17]? = some none ∧
    (∃ sl, busM.slots[0]? = some (some sl) ∧ sl.allowConflict = false ∧
      (dataSlot 0x0FFF 1 false false 0 []).card.overlaps sl.card = true ∧
      (dataSlot 0x1000 1 false false 0 []).card.overlaps sl.card = false) ∧
    (SerialCard.construct 0x00FE true [] []).startAdr.toNat % 256 ≤ 0xFE ∧
    (SerialCard.construct 0x12FF true [] []).startAdr.toNat % 256 = 0xFF ∧
    1 < [(0x11 : Byte), 0x22].length ∧ [(0x11 : Byte), 0x22].length ≤ 2 ∧ (0xFFFE : Word).toNat ≤ (0xFFFF : Word).toNat ∧
    (0xFFFF : Word).toNat < (0xFFFE : Word).toNat + 2 :=
  ⟨rfl, by decide, by decide, rfl, ⟨_, rfl, rfl, by decide, by decide⟩, by decide, by decide, by decide, by decide, by decide,
    by decide⟩

/-- Clauses of `CpuAndBusReset`: a bus with an empty slot and a card of each kind, RAM in range at both ends. -/
theorem witness_clear : let s := wit {} regs0 [(0x0100, 0x34)]
    s.slots[3]? = some none ∧ (flatRam []).card.inRange 0x0000 = true ∧ (flatRam []).card.inRange 0xFFFF = true ∧
    (∃ al c, s.slots[0]? = some (some ⟨.data c, al⟩) ∧ c.writeLocked = false) ∧
    (∃ al c, s.slots[1]? = some (some ⟨.serial c, al⟩)) ∧
    (∃ al c, s.slots[2]? = some (some ⟨.data c, al⟩) ∧ c.writeLocked = true) ∧
    ∃ al c, s.slots[4]? = some (some ⟨.other c, al⟩) :=
  ⟨rfl, by decide, by decide, ⟨_, _, rfl, rfl⟩, ⟨_, _, rfl⟩, ⟨_, _, rfl, rfl⟩, _, _, rfl⟩

/-- Hypotheses of `LoaderWrites`: its three errors, and a load that fits exactly, with and without the reset vector. -/
theorem witness_load : ([] : List Byte).length = 0 ∧ 0x10000 < (0xFFFF : Word).toNat + [0, (0 : Byte)].length ∧
    (0xFFFF : Word).toNat + [(0 : Byte)].length ≤ 0x10000 ∧ (2 : Word).toNat < 3 ∧ 3 ≤ (3 : Word).toNat ∧
    (wit {} regs0 []).dataAt 0xFFFF ∧ (wit {} regs0 []).dataAt 0x0000 :=
  ⟨rfl, by decide, by decide, by decide, by decide,
    ⟨[], _, _, rfl, by simp, by decide, _, rfl⟩, ⟨[], _, _, rfl, by simp, by decide, _, rfl⟩⟩

/-- Hypotheses of `SerialPorts` and `SerialControlWrite`: a legal status, both ports, the largest base, endpoints that fail and
that do not, with `RDRF` 1 as well. -/
theorem witness_serial : (acia [.byte 0x61]).statusLegal ∧ (acia []).selectsControl 0x1010 = true ∧
    (acia []).selectsControl 0x1111 = false ∧ (SerialCard.construct 0x00FE true [] []).startAdr.toNat % 256 ≤ 0xFE ∧
    (Card.serial (SerialCard.construct 0x00FE true [] [])).answers (portAddr 0xFF) true = true ∧
    (acia [.fail]).pollFails ∧ ¬ (acia [.byte 0x61]).pollFails ∧ ¬ ({ acia [.fail] with status := 0x03 } : SerialCard).pollFails ∧
    ({ acia [] with txFail := [true] } : SerialCard).putFails ∧ ¬ (acia []).putFails ∧ (0x60 : Byte) &&& 0x60 = 0x60 :=
  ⟨(by decide : SerialCard.status _ &&& 0x7E = 0x02), by decide, by decide, by decide, by decide, ⟨by decide, by decide⟩,
    fun h => absurd h.2 (by decide), fun h => absurd h.1 (by decide), (by decide : List.head? _ = _),
    (by decide : ¬ List.head? _ = _), by decide⟩

/-- Hypotheses of `LowestSlotInterrupts`: no request, and a request behind a card that makes none. -/
theorem witness_lowest : busIsIrq (flatMachine {}) = false ∧
    ∃ pre sl post inst, (wit {} regs0 []).slots = pre ++ some sl :: post ∧
      (∀ x, some x ∈ pre → x.card.irqRequest ({} : Params) = none) ∧ sl.card.irqRequest ({} : Params) = some inst := by
  refine ⟨rfl, [some (flatRam []), aciaSlot { acia [.byte 0x61, .idle] with txFail := [false] },
    some (dataSlot 0xF000 0x10 true true 0 [0xAA]), none], _, _, _, rfl, ?_, rfl⟩
  intro x hx
  simp only [aciaSlot, List.mem_cons, Option.some.injEq, reduceCtorEq, List.not_mem_nil, or_false, or_self] at hx
  rcases hx with rfl | rfl | rfl <;> rfl

/-- Hypotheses of `RestartInterrupt`, for both values of each parameter it names. -/
theorem witness_restart : ([true, false].all fun b =>
    let s := { wit { irqAcceptPushesPc := b, irqWakesHalt := b } ⟨0x0002, 0, 0, 0, 0x0003, 0x0100⟩ [] with interruptsEnabled := true }
    irqSlots s.params (askCards s).slots == some ⟨0b11#2 ++ 2#3 ++ 0b111#3, 0, 0⟩ && s.ramAt (s.get16 .sp - 1) &&
      s.ramAt (s.get16 .sp - 4)) = true := by decide

/-- Hypotheses of `CycleIsSteps`, and each outcome of a cycle: an acceptance and an end, none within 0 acceptances, a fault of
the step, a fault of an acceptance. -/
theorem witness_cycle : let s := wit {} regsSp [(0x0100, 0xFB)]
    let u := wit {} regsSp [(0x0100, 0xCB)]
    let v := bench {} regsSp [(0x0100, 0xFB)] (irqSlot ⟨0xDD, 0, 0⟩ :: List.replicate 16 none)
    boundaryCheck s = .go s ∧ (∃ t, cycle 1 s = some (.next t)) ∧ cycle 0 s = none ∧
    boundaryCheck u = .go u ∧ (∃ f, cycle 0 u = some (.fault f)) ∧ boundaryCheck v = .go v ∧ ∃ f, cycle 1 v = some (.fault f) :=
  ⟨rfl, ⟨_, rfl⟩, rfl, rfl, ⟨_, rfl⟩, rfl, _, rfl⟩

/-- Hypotheses of `BdosPrints`: the shim's entry, a string and the empty string. -/
theorem witness_bdos : (atBdos 0x09).params.pseudoBdos = true ∧ (atBdos 0x09).halted = false ∧ (atBdos 0x09).irqQueue = [] ∧
    (atBdos 0x09).get16 .pc = 0x0005 ∧ (atBdos 0x09).peek false 0x0005 = some 0x00 ∧
    (atBdos 0x09).peek false ((atBdos 0x09).get16 .sp) = some 0x0B ∧
    (atBdos 0x09).peek false ((atBdos 0x09).get16 .sp + 1) = some 0x01 ∧ (atBdos 0x09).get8 .c = 0x09 ∧
    (atBdos 0x02).get8 .c = 0x02 ∧ (atBdos 0x00).get8 .c ≠ 0x02 ∧ (atBdos 0x00).get8 .c ≠ 0x09 ∧
    0x24 ∉ [(0x48 : Byte), 0x49] ∧ bytesAt (atBdos 0x09) 0x0115 ([0x48, 0x49] ++ [0x24]) ∧
    bytesAt (atBdos 0x09) 0x0117 ([] ++ [0x24]) :=
  ⟨rfl, rfl, rfl, rfl, by decide, by decide, by decide, by decide, by decide, by decide, by decide, by decide,
    ⟨by decide, by decide, by decide, trivial⟩, by decide, trivial⟩

/-- Hypotheses of `BdosWarmBoot`: the first and a later visit, with RAM at address 0. -/
theorem witness_boot : let s := wit { pseudoBdos := true } ⟨0x0002, 0, 0, 0, 0, 0x0000⟩ []
    s.params.pseudoBdos = true ∧ s.halted = false ∧ s.irqQueue = [] ∧ s.get16 .pc = 0x0000 ∧ s.justBooted = true ∧
    ({ s with justBooted := false } : State).justBooted = false ∧ s.ramAt 0x0000 = true ∧ s.healthy :=
  ⟨rfl, rfl, rfl, rfl, rfl, rfl, by decide, wit_healthy _ _ _⟩

/-- Hypotheses of `BdosWarmBoot`, a later visit: ROM at address 0 before a RAM card, no card, a serial card whose endpoint
fails. -/
theorem witness_boot_later :
    (let s := { romFirst with params := { pseudoBdos := true }, justBooted := false }
     s.halted = false ∧ s.irqQueue = [] ∧ s.get16 .pc = 0x0000 ∧ s.healthy ∧ s.ramAt 0x0000 = false ∧
       s.peek false 0x0000 = some 0xAA ∧ bytesAt s 0x0000 [0xAA] ∧ decode [0xAA] = .ok (.xraD, [])) ∧
    (let s := { State.reset with params := { pseudoBdos := true }, justBooted := false }
     s.healthy ∧ s.unmapped false 0x0000 ∧ s.ramAt 0x0000 = false ∧ s.peek false 0x0000 = some 0xFF ∧
       decode [0xFF] = .ok (.rst7, [])) ∧
    (let s := { withCards [aciaSlot (SerialCard.construct 0x0000 false [.fail] [])] with
        params := { pseudoBdos := true }, justBooted := false }
     s.get16 .pc = 0x0000 ∧ ∃ f, memWrite 0x0000 0x76 s = .error f) := by
  refine ⟨⟨rfl, rfl, rfl, ?_, by decide, by decide, ⟨by decide, trivial⟩, rfl⟩,
    ⟨?_, ?_, by decide, by decide, rfl⟩, rfl, _, rfl⟩
  · intro sl h
    simp only [romFirst, withCards, List.cons_append, List.nil_append, List.mem_cons, Option.some.injEq, List.mem_replicate,
      reduceCtorEq, and_false, or_false] at h
    rcases h with rfl | rfl <;> exact trivial
  · intro sl h
    simp only [State.reset, List.mem_replicate, reduceCtorEq, and_false] at h
  · intro sl h
    simp only [State.reset, List.mem_replicate, reduceCtorEq, and_false] at h

end Sys2Proof.Tests
end

section
/-! SUPPORT. All that a step does to the cards and the parameters: at most one boundary check that asks the cards, then bus
accesses that complete (30_encoding.md R82, 60_exceptions.md R272 to R274, R285 to R288). -/

namespace Sys2Proof.Machine

/-! ## Runs of bus accesses -/

/-- From `s` to `t` the cards changed by completed bus reads and CPU writes only, and no parameter changed. Unlike `Accessed`
it says nothing of the print sink and of `just_booted`, which the pseudo-BDOS shim changes. -/
structure BusRun (s t : State) : Prop where
  params : t.params = s.params
  trace : ∃ ws, BusTrace s.params ws s.slots t.slots

theorem Accessed.busRun {ws : List (Word × Bool)} {s t : State} (h : Accessed ws s t) : BusRun s t :=
  ⟨h.params, ws, h.trace⟩

theorem BusRun.of_slots_eq {s t : State} (hp : t.params = s.params) (hl : t.slots = s.slots) : BusRun s t :=
  ⟨hp, [], hl ▸ .refl _⟩

theorem BusRun.refl (s : State) : BusRun s s := .of_slots_eq rfl rfl

theorem BusRun.trans {s t u : State} (h : BusRun s t) (k : BusRun t u) : BusRun s u := by
  obtain ⟨ws, hw⟩ := h.trace
  obtain ⟨vs, hv⟩ := k.trace
  exact ⟨k.params.trans h.params, ws ++ vs, hw.trans (h.params ▸ hv)⟩

theorem BusRun.busConfig {s t : State} (h : BusRun s t) : busConfig t = busConfig s :=
  h.trace.elim fun _ tr => tr.view Card.read_config Card.write_config

theorem BusRun.romContents {s t : State} (h : BusRun s t) : romContents t = romContents s :=
  h.trace.elim fun _ tr => tr.view Card.read_romView Card.write_romView

/-! ## Fetch and execute (30_encoding.md R81 to R83) -/

theorem fetchOperands_accessed {op : Byte} {s t : State} {i : Instr} (h : fetchOperands op s = .ok (i, t)) :
    Accessed [] s t := by
  unfold fetchOperands at h
  split at h
  · cases h; exact .refl s
  · obtain ⟨b2, s1, h2, h⟩ := Act.andThen_ok h
    cases h; exact fetch8_accessed h2
  · obtain ⟨b2, s1, h2, h⟩ := Act.andThen_ok h
    obtain ⟨b3, s2, h3, h⟩ := Act.andThen_ok h
    cases h; exact (fetch8_accessed h2).trans (fetch8_accessed h3)

theorem fetchInstr_accessed {s t : State} {i : Instr} (h : fetchInstr s = .ok (i, t)) : Accessed [] s t := by
  obtain ⟨op, s1, h1, h⟩ := Act.andThen_ok h
  exact (fetch8_accessed h1).trans (fetchOperands_accessed h)

theorem execute_busRun {op : Byte} {s t : State} (h : execute op s = .next t) : BusRun s t := by
  obtain ⟨i, s1, h1, h⟩ := Act.out_next h
  exact ((fetchOperands_accessed h1).trans (exec_accessed h)).busRun

theorem runInstr_busRun {s t : State} (h : runInstr s = .next t) : BusRun s t := by
  obtain ⟨i, s1, h1, h⟩ := Act.out_next h
  exact ((fetchInstr_accessed h1).trans (exec_accessed h)).busRun

/-! ## The pseudo-BDOS shim (60_exceptions.md R285 to R288) -/

theorem printString_busRun {n : Nat} {a : Word} {s t : State} (h : printString n a s = .ok ((), t)) : BusRun s t := by
  induction n generalizing a s with
  | zero => cases h
  | succ n ih =>
    unfold printString at h
    split at h
    · cases h
    · next b s1 hr =>
      have hread : BusRun s s1 := (memRead_ok hr).2.busRun
      split at h
      · cases h; exact hread
      · have hprint : BusRun s1 { s1 with sink := s1.sink ++ [b] } := .of_slots_eq rfl rfl
        exact (hread.trans hprint).trans (ih h)

theorem bdosFunction_busRun {s t : State} (h : bdosFunction s = .ok ((), t)) : BusRun s t := by
  unfold bdosFunction at h
  split at h
  · cases h; exact .of_slots_eq rfl rfl
  · split at h
    · exact printString_busRun h
    · cases h

theorem bdosCall_busRun {s t : State} (h : bdosCall s = .ok ((), t)) : BusRun s t := by
  obtain ⟨_, s1, h1, h⟩ := Act.andThen_ok h
  obtain ⟨_, s2, h2, h⟩ := Act.andThen_ok h
  exact (bdosFunction_busRun h1).trans ((fetch8_accessed h2).trans (returnFromCall_ok h).2).busRun

theorem bdosBoot_busRun {s t : State} (h : bdosBoot s = .ok ((), t)) : BusRun s t := by
  unfold bdosBoot at h
  split at h
  · cases h; exact .of_slots_eq rfl rfl
  · exact (memWrite_ok h).2.busRun

theorem bdosHook_busRun {s t : State} {handled : Bool} (h : bdosHook s = .ok (handled, t)) : BusRun s t := by
  unfold bdosHook at h
  split at h
  · obtain ⟨_, s1, h1, h⟩ := Act.andThen_ok h
    cases h; exact bdosBoot_busRun h1
  · split at h
    · obtain ⟨_, s1, h1, h⟩ := Act.andThen_ok h
      cases h; exact bdosCall_busRun h1
    · cases h; exact .refl s

/-! ## Step and acceptance (30_encoding.md R82, 60_exceptions.md R274) -/

theorem cpuStep_busRun {s t : State} (h : cpuStep s = .next t) : BusRun s t := by
  unfold cpuStep at h
  split at h
  · cases h; exact .refl s
  · split at h
    · obtain ⟨handled, s1, h1, h⟩ := Act.out_next h
      have hhook : BusRun s s1 := bdosHook_busRun h1
      split at h
      · cases h; exact hhook
      · exact hhook.trans (runInstr_busRun h)
    · exact runInstr_busRun h

theorem acceptInterrupt_busRun {inst : IrqInst} {s t : State} (h : acceptInterrupt inst s = .next t) : BusRun s t := by
  obtain ⟨_, s1, h1, h⟩ := Act.out_next h
  obtain ⟨_, _, _, _, henter⟩ := enterInterrupt_ok h1
  split at h <;> cases h
  next s2 h2 =>
    have hleave : BusRun s2 (leaveInterrupt s2) := .of_slots_eq rfl rfl
    exact (henter.busRun.trans (execute_busRun h2)).trans hleave

/-! ## The boundary check (60_exceptions.md R270 to R273) -/

/-- A refresh changes nothing (20_memory.md R51). -/
theorem busRefresh_eq (s : State) : busRefresh s = s := by
  have hid : (Option.map fun sl : Slot => { sl with card := Card.refresh sl.card }) = id := by
    funext o; cases o <;> rfl
  simp [busRefresh, mapCards, hid]

/-- The boundary check changes nothing but by asking the cards. -/
theorem boundaryCheck_cases (s : State) :
    (∃ inst, boundaryCheck s = .accept inst (askCards s)) ∨ boundaryCheck s = .go (askCards s) ∨
      boundaryCheck s = .go s := by
  unfold boundaryCheck
  split
  · split
    · exact .inl ⟨_, rfl⟩
    · exact .inr (.inl rfl)
  · exact .inr (.inr rfl)

/-- Every step that completes is a run of bus accesses, after the cards were asked or without (log 5). -/
theorem step_busRun {s t : State} (h : step s = .next t) : BusRun s t ∨ BusRun (askCards s) t := by
  unfold step machineStep at h
  rw [busRefresh_eq] at h
  rcases boundaryCheck_cases s with ⟨inst, hb⟩ | hb | hb <;> rw [hb] at h
  · exact .inr (acceptInterrupt_busRun h)
  · exact .inr (cpuStep_busRun h)
  · exact .inl (cpuStep_busRun h)

end Sys2Proof.Machine
end

section
/-! SUPPORT. No step changes the configuration, the parameters or a ROM card (00_scope.md R5, 10_state.md R22, 20_memory.md R46,
R60). -/

namespace Sys2Proof.Machine

/-! ## Asking a card keeps its configuration -/

theorem Card.asked_config (c : Card) : c.asked.config = c.config := by
  cases c with
  | data d => rfl
  | serial d => rfl
  | other d => simp only [Card.asked, Card.config, OtherCard.react]; split <;> rfl

/-- Only an `Other` card reacts, and of it `romView` shows the configuration alone. -/
theorem Card.asked_romView (c : Card) : c.asked.romView = c.romView := by
  cases c with
  | data d => rfl
  | serial d => rfl
  | other d => exact Card.asked_config (.other d)

/-- A view of cards that `g` does not change is unchanged when `g` is applied to every card. -/
theorem mapCards_view {f g : Card → Card} (h : ∀ c, f (g c) = f c) (l : List (Option Slot)) :
    mapCards f (mapCards g l) = mapCards f l := by
  simp [mapCards, Function.comp_def, h]

theorem askCards_busConfig (s : State) : busConfig (askCards s) = busConfig s := mapCards_view Card.asked_config s.slots

theorem askCards_romContents (s : State) : romContents (askCards s) = romContents s :=
  mapCards_view Card.asked_romView s.slots

/-- Settles O4: a step is bus accesses, after the cards were asked or without, and neither changes the configuration, a ROM
card or a parameter. -/
theorem stepKeepsConfigurationAndRom : Obligations.StepKeepsConfigurationAndRom := by
  intro s t h
  rcases step_busRun h with run | run
  · exact ⟨run.busConfig, run.romContents, run.params⟩
  · exact ⟨run.busConfig.trans (askCards_busConfig s), run.romContents.trans (askCards_romContents s), run.params⟩

end Sys2Proof.Machine
end

section
/-! SUPPORT. What an instruction writes in the register file and the control state, said once for every instruction (10_state.md
R17 to R20): HLT, EI and DI write their control bit, every other instruction registers and cards only. -/

namespace Sys2Proof.Machine

/-! ## Frames of the register file -/

/-- From `s` to `t` only registers and cards changed: of the flags those of `fs` at most, a masked `F` masked as before, `SP` only
if `sp` and `pc` only if `pc`. -/
structure Framed (fs : List Flag) (sp pc : Bool) (s t : State) : Prop where
  outside : onlyRegsAndCards s t
  flags : ∀ x, x ∉ fs → t.flag x = s.flag x
  masked : s.flagsMasked → t.flagsMasked
  sp : sp = false → t.get16 .sp = s.get16 .sp
  pc : pc = false → t.get16 .pc = s.get16 .pc

variable {fs : List Flag} {sp pc : Bool} {s t u : State}

theorem Framed.trans (h : Framed fs sp pc s t) (k : Framed fs sp pc t u) : Framed fs sp pc s u where
  outside := h.outside.trans k.outside
  flags x hx := (k.flags x hx).trans (h.flags x hx)
  masked hm := k.masked (h.masked hm)
  sp hs := (k.sp hs).trans (h.sp hs)
  pc hp := (k.pc hp).trans (h.pc hp)

theorem flag_of_af (h : t.regs.af = s.regs.af) (x : Flag) : t.flag x = s.flag x := by
  simp only [State.flag, State.getF, Regs.getF, h]

theorem flagsMasked_of_af (h : t.regs.af = s.regs.af) (hm : s.flagsMasked) : t.flagsMasked := by
  simpa only [State.flagsMasked, State.getF, Regs.getF, h] using hm

/-- Whatever leaves `AF` alone leaves every flag alone. -/
theorem Framed.of_af (out : onlyRegsAndCards s t) (haf : t.regs.af = s.regs.af)
    (hsp : sp = false → t.regs.sp = s.regs.sp) (hpc : pc = false → t.regs.pc = s.regs.pc) : Framed fs sp pc s t :=
  ⟨out, fun x _ => flag_of_af haf x, flagsMasked_of_af haf, hsp, hpc⟩

/-- A change of the cards alone is within every frame. -/
theorem Framed.of_slots (h : t = { s with slots := t.slots }) : Framed fs sp pc s t :=
  .of_af (.of_slots h) (by rw [h]) (fun _ => by rw [h]) (fun _ => by rw [h])

/-- A change of `SP`, `pc` and the cards alone is within every frame that lists both. -/
theorem Framed.of_sp_pc (h : t = { s with regs := { s.regs with sp := t.regs.sp, pc := t.regs.pc }, slots := t.slots }) :
    Framed fs true true s t := by
  rw [h]; exact .of_af rfl rfl nofun nofun

theorem Framed.set8 (s : State) (x : Reg8) (v : Byte) : Framed fs sp pc s (s.set8 x v) where
  outside := rfl
  flags f _ := s.flag_set8 x v f
  masked hm := (congrArg (· &&& 0x2A) (s.getF_set8 x v)).trans hm
  sp _ := s.get16_sp_set8 x v
  pc _ := s.get16_pc_set8 x v

theorem Framed.setFlag (s : State) {x : Flag} (hx : x ∈ fs) (b : Bool) : Framed fs sp pc s (s.setFlag x b) where
  outside := rfl
  flags _ hy := s.flag_setFlag_ne b fun e => hy (e ▸ hx)
  masked hm := (s.constBits_setFlag x b).trans hm
  sp _ := rfl
  pc _ := rfl

theorem Framed.setZsp (s : State) (hz : Flag.z ∈ fs) (hs : Flag.s ∈ fs) (hp : Flag.p ∈ fs) (v : Byte) :
    Framed fs sp pc s (s.setZsp v) :=
  ((Framed.setFlag s hz _).trans (.setFlag _ hs _)).trans (.setFlag _ hp _)

/-- A write of `BC`, `DE` or `HL` is within every frame. -/
theorem Framed.set16 (s : State) {x : Reg16} (hx : x ≠ .af ∧ x ≠ .sp ∧ x ≠ .pc) (v : Word) :
    Framed fs sp pc s (s.set16 x v) where
  outside := rfl
  flags f _ := s.flag_set16 v hx.1 f
  masked hm := (congrArg (· &&& 0x2A) (s.getF_set16 v hx.1)).trans hm
  sp _ := s.get16_set16_ne v hx.2.1.symm
  pc _ := s.get16_set16_ne v hx.2.2.symm

theorem Framed.set16_sp (s : State) (v : Word) : Framed fs true pc s (s.set16 .sp v) := .of_af rfl rfl nofun fun _ => rfl

theorem Framed.set16_pc (s : State) (v : Word) : Framed fs sp true s (s.set16 .pc v) := .of_af rfl rfl (fun _ => rfl) nofun

/-- A write of `AF` passes the mask (10_state.md R14). -/
theorem Framed.set16_af (s : State) (v : Word) : Framed [.c, .p, .ac, .z, .s] sp pc s (s.set16 .af v) where
  outside := rfl
  flags x hx := absurd (by cases x <;> decide) hx
  masked _ := (congrArg (· &&& 0x2A) (s.getF_set16_af v)).trans (State.constBits_maskF _)
  sp _ := rfl
  pc _ := rfl

/-! ## Shared operations of the families -/

theorem readR8_framed {x : R8Sel} {v : Byte} (h : readR8 x s = .ok (v, t)) : Framed fs sp pc s t := .of_slots (readR8_ok h).1

theorem writeR8_framed {x : R8Sel} {v : Byte} (h : writeR8 x v s = .ok ((), t)) : Framed fs sp pc s t := by
  cases x with
  | reg r => cases h; exact .set8 s r v
  | m => exact .of_slots (memWrite_ok h).1

/-- What `INR` and `DCR` share: the operand is read, `AC` set, the result written, `Z`, `S`, `P` set (41_inc_dec_dad.md R130 to
R133). -/
theorem count_framed {x : R8Sel} {f : Byte → Byte} {ac : Byte → Bool}
    (h : ((readR8 x s).out fun v s1 =>
      (writeR8 x (f v) (s1.setFlag .ac (ac v))).out fun _ s2 => .next (s2.setZsp (f v))) = .next t) :
    Framed [.z, .s, .p, .ac] sp pc s t := by
  obtain ⟨v, s1, h1, h⟩ := Act.out_next h
  obtain ⟨_, s2, h2, h⟩ := Act.out_next h
  cases h
  exact (((readR8_framed h1).trans (.setFlag s1 (by decide) _)).trans (writeR8_framed h2)).trans
    (.setZsp s2 (by decide) (by decide) (by decide) _)

theorem increment_framed {x : R8Sel} (h : increment x s = .next t) : Framed [.z, .s, .p, .ac] sp pc s t := count_framed h

theorem decrement_framed {x : R8Sel} (h : decrement x s = .next t) : Framed [.z, .s, .p, .ac] sp pc s t := count_framed h

theorem loadRM_framed {dst : Reg8} (h : loadRM dst s = .next t) : Framed fs sp pc s t := by
  obtain ⟨v, s1, h1, h⟩ := Act.out_next h
  cases h
  exact (readR8_framed h1).trans (.set8 s1 dst v)

/-- An action that leaves registers alone and gives a byte that is then loaded into `A`. -/
theorem loadAcc_framed {r : Act Byte} (hr : ∀ {v s1}, r = .ok (v, s1) → s1 = { s with slots := s1.slots })
    (h : r.out (fun v s1 => .next (s1.setAcc v)) = .next t) : Framed fs sp pc s t := by
  obtain ⟨v, s1, h1, h⟩ := Act.out_next h
  cases h
  exact (Framed.of_slots (hr h1)).trans (.set8 s1 .a v)

/-- The constant bits of `F` are no result of an ALU operation (42_alu.md R141 to R143). -/
theorem aluApply_constBits (op : AluOp) (imm : Bool) (v : Byte) (s : State) :
    (aluApply op imm v s).getF &&& 0x2A = s.getF &&& 0x2A := by
  cases op <;>
    simp only [aluApply, aluAdd, aluSub, aluAnd, aluXor, aluOr, State.constBits_setZsp, State.constBits_setFlag,
      State.getF_setAcc, if_true, Bool.false_eq_true, if_false]

theorem aluApply_framed (op : AluOp) (imm : Bool) (v : Byte) (s : State) :
    Framed [.c, .p, .ac, .z, .s] sp pc s (aluApply op imm v s) where
  outside := by rw [aluApply_regs]; exact .of_regs s _
  flags x hx := absurd (by cases x <;> decide) hx
  masked hm := (aluApply_constBits op imm v s).trans hm
  sp _ := aluApply_get16 op imm v s (by decide)
  pc _ := aluApply_get16 op imm v s (by decide)

theorem aluOperand_framed {op : AluOp} {x : R8Sel} (h : aluOperand op x s = .next t) :
    Framed [.c, .p, .ac, .z, .s] sp pc s t := by
  obtain ⟨v, s1, h1, h⟩ := Act.out_next h
  cases h
  exact (readR8_framed h1).trans (aluApply_framed op false v s1)

theorem addToHl_framed (v : Word) (s : State) : Framed [.c] sp pc s (addToHl v s) :=
  (Framed.setFlag s (by decide) _).trans (.set16 _ (by decide) _)

theorem aluDaa_framed (s : State) : Framed [.c, .p, .ac, .z, .s] sp pc s (aluDaa s) :=
  (((Framed.setFlag s (by decide) _).trans (.set8 _ .a _)).trans (.setFlag _ (by decide) _)).trans
    (.setZsp _ (by decide) (by decide) (by decide) _)

/-- A rotate: `A`, then `C` (43_rotate_daa_misc.md R170 to R173). -/
theorem rotate_framed (s : State) (v : Byte) (b : Bool) : Framed [.c] sp pc s ((s.setAcc v).setFlag .c b) :=
  (Framed.set8 s .a v).trans (.setFlag _ (by decide) b)

theorem jumpIf_framed {cc : Cond} {a16 : Word} (h : jumpIf cc a16 s = .next t) : Framed fs sp true s t := by
  obtain ⟨e, _⟩ := jumpIf_ok h
  rw [e]
  exact .of_af rfl rfl (fun _ => rfl) nofun

theorem callTo_framed {target : Word} (h : callTo target s = .next t) : Framed fs true true s t := by
  obtain ⟨e, _⟩ := callTo_ok h
  rw [e]
  exact .of_af rfl rfl nofun nofun

theorem callIf_framed {cc : Cond} {a16 : Word} (h : callIf cc a16 s = .next t) : Framed fs true true s t :=
  .of_sp_pc (callIf_ok h).1

theorem returnFromCall_framed (h : returnFromCall s = .ok ((), t)) : Framed fs true true s t := by
  obtain ⟨e, _⟩ := returnFromCall_ok h
  rw [e]
  exact .of_af rfl rfl nofun nofun

theorem returnIf_framed {cc : Cond} (h : returnIf cc s = .next t) : Framed fs true true s t := .of_sp_pc (returnIf_ok h).1

theorem pushPair_framed {x : StackPair} (h : pushPair x s = .next t) : Framed fs true pc s t := by
  obtain ⟨e, _⟩ := pushPair_ok h
  rw [e]
  exact .of_af rfl rfl nofun fun _ => rfl

theorem pop16_framed {v : Word} (h : pop16 s = .ok (v, t)) : Framed fs true pc s t := by
  obtain ⟨e, _⟩ := pop16_ok h
  rw [e]
  exact .of_af rfl rfl nofun fun _ => rfl

theorem popPair_framed {x : StackPair} (hx : x ≠ .psw) (h : popPair x s = .next t) : Framed fs true pc s t := by
  obtain ⟨v, s1, h1, h⟩ := Act.out_next h
  cases h
  have hcell : stackCell x ≠ .af ∧ stackCell x ≠ .sp ∧ stackCell x ≠ .pc := by
    cases x
    case psw => exact absurd rfl hx
    all_goals decide
  exact (pop16_framed h1).trans (.set16 s1 hcell v)

theorem popPsw_framed (h : popPair .psw s = .next t) : Framed [.c, .p, .ac, .z, .s] true pc s t := by
  obtain ⟨v, s1, h1, h⟩ := Act.out_next h
  cases h
  exact (pop16_framed h1).trans (.set16_af s1 v)

theorem exchangeTop_framed (h : exchangeTop s = .next t) : Framed fs sp pc s t := by
  obtain ⟨e, _⟩ := exchangeTop_ok h
  rw [e]
  exact .of_af rfl rfl (fun _ => rfl) fun _ => rfl

/-! ## Every instruction (10_state.md R17 to R20) -/

/-- All an instruction that completes can write outside the cards: a control bit if it is `HLT`, `EI` or `DI`, otherwise
registers, within its rows of the tables of 10_state.md R17 to R19. -/
theorem exec_cases {i : Instr} (h : exec i s = .next t) :
    (i = .hlt ∧ t = { s with halted := true }) ∨ (i = .ei ∧ t = { s with interruptsEnabled := true }) ∨
      (i = .di ∧ t = { s with interruptsEnabled := false }) ∨
      Framed (flagsWritten i) (writesSp i) (writesPc i) s t := by
  cases i
  case hlt => cases h; exact .inl ⟨rfl, rfl⟩
  case ei => cases h; exact .inr (.inl ⟨rfl, rfl⟩)
  case di => cases h; exact .inr (.inr (.inl ⟨rfl, rfl⟩))
  all_goals refine .inr (.inr (.inr ?_))
  case undefinedOpcode => cases h
  case nop => cases h; exact .of_slots rfl
  case lxiB | lxiD | lxiH | inxB | inxD | inxH | dcxB | dcxD | dcxH => cases h; exact .set16 s (by decide) _
  case lxiSp | inxSp | dcxSp | sphl => cases h; exact .set16_sp s _
  case jmp | pchl => cases h; exact .set16_pc s _
  case xchg => cases h; exact (Framed.set16 s (by decide) _).trans (.set16 _ (by decide) _)
  case dadB | dadD | dadH | dadSp => cases h; exact addToHl_framed _ s
  case rlc | rrc | ral | rar => cases h; exact rotate_framed s _ _
  case stc | cmc => cases h; exact .setFlag s (by decide) _
  case daa => cases h; exact aluDaa_framed s
  case staxB | staxD | sta => exact .of_slots (memWrite_ok (Act.done_next h)).1
  case shld => exact .of_slots (memWrite2_ok (Act.done_next h)).1
  case outPort => exact .of_slots (ioWrite_ok (Act.done_next h)).1
  case ldaxB | ldaxD | lda => exact loadAcc_framed (fun e => (memRead_ok e).1) h
  case inPort => exact loadAcc_framed (fun e => (ioRead_ok e).1) h
  case lhld =>
    obtain ⟨v, s1, h1, h⟩ := Act.out_next h
    cases h
    exact (Framed.of_slots (memRead2_ok h1).1).trans (.set16 s1 (by decide) v)
  case inrB | inrC | inrD | inrE | inrH | inrL | inrA => exact increment_framed (x := .reg _) h
  case dcrB | dcrC | dcrD | dcrE | dcrH | dcrL | dcrA => exact decrement_framed (x := .reg _) h
  case inrM => exact increment_framed h
  case dcrM => exact decrement_framed h
  case mviM => exact writeR8_framed (Act.done_next h)
  case movBM | movCM | movDM | movEM | movHM | movLM | movAM => exact loadRM_framed h
  case movMB | movMC | movMD | movME | movMH | movML | movMA => exact .of_slots (storeMR_ok h).1
  case adi | aci | sui | sbi | ani | xri | ori | cpi => cases h; exact aluApply_framed _ true _ s
  case jnz | jz | jnc | jc | jpo | jpe | jp | jm => exact jumpIf_framed h
  case rst0 | rst1 | rst2 | rst3 | rst4 | rst5 | rst6 | rst7 | call => exact callTo_framed h
  case cnz | cz | cnc | cc | cpo | cpe | cp | cm => exact callIf_framed h
  case ret => exact returnFromCall_framed (Act.done_next h)
  case rnz | rz | rnc | rc | rpo | rpe | rp | rm => exact returnIf_framed h
  case pushB | pushD | pushH | pushPsw => exact pushPair_framed h
  case popB | popD | popH => exact popPair_framed (by decide) h
  case popPsw => exact popPsw_framed h
  case xthl => exact exchangeTop_framed h
  case movBB | movBC | movBD | movBE | movBH | movBL | movBA | movCB | movCC | movCD | movCE | movCH | movCL | movCA | movDB
      | movDC | movDD | movDE | movDH | movDL | movDA | movEB | movEC | movED | movEE | movEH | movEL | movEA | movHB | movHC | movHD
      | movHE | movHH | movHL | movHA | movLB | movLC | movLD | movLE | movLH | movLL | movLA | movAB | movAC | movAD | movAE
      | movAH | movAL | movAA | mviB | mviC | mviD | mviE | mviH | mviL | mviA | cma =>
    cases h; exact .set8 s _ _
  case addM | adcM | subM | sbbM | anaM | xraM | oraM | cmpM => exact aluOperand_framed h
  all_goals cases h
  all_goals exact aluApply_framed _ false _ s

/-- Settles O41: the three instructions that write a control bit leave `F` alone, any other is framed by its row of the table. -/
theorem flagsFrame : Obligations.FlagsFrame := by
  intro i s t h
  rcases exec_cases h with ⟨_, rfl⟩ | ⟨_, rfl⟩ | ⟨_, rfl⟩ | frame
  · exact ⟨fun _ _ => rfl, id⟩
  · exact ⟨fun _ _ => rfl, id⟩
  · exact ⟨fun _ _ => rfl, id⟩
  · exact ⟨frame.flags, frame.masked⟩

/-- Settles O43, from the same frame. -/
theorem stackPointerAndPcFrame : Obligations.StackPointerAndPcFrame := by
  intro i s t h
  rcases exec_cases h with ⟨_, rfl⟩ | ⟨_, rfl⟩ | ⟨_, rfl⟩ | frame
  · exact ⟨fun _ => rfl, fun _ => rfl⟩
  · exact ⟨fun _ => rfl, fun _ => rfl⟩
  · exact ⟨fun _ => rfl, fun _ => rfl⟩
  · exact ⟨frame.sp, frame.pc⟩

/-- Settles O44: `HLT`, `EI` and `DI` write one control bit each, any other instruction registers and cards only. -/
theorem controlStateFrame : Obligations.ControlStateFrame := by
  intro i s t h
  rcases exec_cases h with ⟨rfl, rfl⟩ | ⟨rfl, rfl⟩ | ⟨rfl, rfl⟩ | frame
  · exact ⟨fun hne => absurd rfl hne, fun _ _ => rfl, rfl, rfl, rfl, rfl⟩
  · exact ⟨fun _ => rfl, fun hne => absurd rfl hne, rfl, rfl, rfl, rfl⟩
  · exact ⟨fun _ => rfl, fun _ hne => absurd rfl hne, rfl, rfl, rfl, rfl⟩
  · have out := frame.outside
    rw [onlyRegsAndCards] at out
    rw [out]
    exact ⟨fun _ => rfl, fun _ _ => rfl, rfl, rfl, rfl, rfl⟩

end Sys2Proof.Machine
end

section
/-! SUPPORT. The invariant (10_state.md R14, R21, R22) holds at reset and every step keeps it: bus accesses keep the cards legal,
and only an instruction writes `F`. -/

namespace Sys2Proof.Machine

/-! ## What keeps `F` masked and the operand buffer empty -/

/-- `AF` is unchanged and an empty operand buffer stays empty: what fetches and the pseudo-BDOS shim do to both. -/
structure AfKept (s t : State) : Prop where
  af : t.regs.af = s.regs.af
  noBuffer : s.irqQueue = [] → t.irqQueue = []

theorem AfKept.refl (s : State) : AfKept s s := ⟨rfl, id⟩

theorem AfKept.trans {s t u : State} (h : AfKept s t) (k : AfKept t u) : AfKept s u :=
  ⟨k.af.trans h.af, k.noBuffer ∘ h.noBuffer⟩

theorem AfKept.of_slots {s t : State} (h : t = { s with slots := t.slots }) : AfKept s t := by
  rw [h]; exact ⟨rfl, id⟩

theorem fetch8_afKept {s t : State} {b : Byte} (h : fetch8 s = .ok (b, t)) : AfKept s t := by
  rcases fetch8_ok h with ⟨_, e, _⟩ | ⟨rest, hq, rfl⟩
  · rw [e]; exact ⟨rfl, id⟩
  · exact ⟨rfl, fun h0 => absurd (h0.symm.trans hq) nofun⟩

theorem fetchOperands_afKept {op : Byte} {s t : State} {i : Instr} (h : fetchOperands op s = .ok (i, t)) : AfKept s t := by
  unfold fetchOperands at h
  split at h
  · cases h; exact .refl s
  · obtain ⟨b2, s1, h2, h⟩ := Act.andThen_ok h
    cases h; exact fetch8_afKept h2
  · obtain ⟨b2, s1, h2, h⟩ := Act.andThen_ok h
    obtain ⟨b3, s2, h3, h⟩ := Act.andThen_ok h
    cases h; exact (fetch8_afKept h2).trans (fetch8_afKept h3)

theorem printString_afKept {n : Nat} {a : Word} {s t : State} (h : printString n a s = .ok ((), t)) : AfKept s t := by
  induction n generalizing a s with
  | zero => cases h
  | succ n ih =>
    unfold printString at h
    split at h
    · cases h
    · next b s1 hr =>
      have hread : AfKept s s1 := .of_slots (memRead_ok hr).1
      split at h
      · cases h; exact hread
      · have hprint : AfKept s1 { s1 with sink := s1.sink ++ [b] } := ⟨rfl, id⟩
        exact (hread.trans hprint).trans (ih h)

theorem returnFromCall_afKept {s t : State} (h : returnFromCall s = .ok ((), t)) : AfKept s t := by
  obtain ⟨e, _⟩ := returnFromCall_ok h
  rw [e]; exact ⟨rfl, id⟩

theorem bdosFunction_afKept {s t : State} (h : bdosFunction s = .ok ((), t)) : AfKept s t := by
  unfold bdosFunction at h
  split at h
  · cases h; exact ⟨rfl, id⟩
  · split at h
    · exact printString_afKept h
    · cases h

theorem bdosCall_afKept {s t : State} (h : bdosCall s = .ok ((), t)) : AfKept s t := by
  obtain ⟨_, s1, h1, h⟩ := Act.andThen_ok h
  obtain ⟨_, s2, h2, h⟩ := Act.andThen_ok h
  exact ((bdosFunction_afKept h1).trans (fetch8_afKept h2)).trans (returnFromCall_afKept h)

theorem bdosBoot_afKept {s t : State} (h : bdosBoot s = .ok ((), t)) : AfKept s t := by
  unfold bdosBoot at h
  split at h
  · cases h; exact ⟨rfl, id⟩
  · exact .of_slots (memWrite_ok h).1

theorem bdosHook_afKept {s t : State} {handled : Bool} (h : bdosHook s = .ok (handled, t)) : AfKept s t := by
  unfold bdosHook at h
  split at h
  · obtain ⟨_, s1, h1, h⟩ := Act.andThen_ok h
    cases h; exact bdosBoot_afKept h1
  · split at h
    · obtain ⟨_, s1, h1, h⟩ := Act.andThen_ok h
      cases h; exact bdosCall_afKept h1
    · cases h; exact .refl s

/-- `F` is masked and the operand buffer is empty: the part of the invariant that is not about the cards. -/
structure State.Settled (s : State) : Prop where
  masked : s.flagsMasked
  noBuffer : s.irqQueue = []

theorem AfKept.settled {s t : State} (h : AfKept s t) (hs : s.Settled) : t.Settled :=
  ⟨flagsMasked_of_af h.af hs.masked, h.noBuffer hs.noBuffer⟩

theorem exec_settled {i : Instr} {s t : State} (h : exec i s = .next t) (hs : s.Settled) : t.Settled := by
  obtain ⟨_, hmasked⟩ := flagsFrame i s t h
  obtain ⟨_, _, _, hqueue, _, _⟩ := controlStateFrame i s t h
  exact ⟨hmasked hs.masked, hqueue.trans hs.noBuffer⟩

theorem runInstr_settled {s t : State} (h : runInstr s = .next t) (hs : s.Settled) : t.Settled := by
  obtain ⟨i, s2, hfetch, hexec⟩ := Act.out_next h
  obtain ⟨op, s1, h1, h2⟩ := Act.andThen_ok hfetch
  exact exec_settled hexec (((fetch8_afKept h1).trans (fetchOperands_afKept h2)).settled hs)

theorem cpuStep_settled {s t : State} (h : cpuStep s = .next t) (hs : s.Settled) : t.Settled := by
  unfold cpuStep at h
  split at h
  · cases h; exact hs
  · split at h
    · obtain ⟨handled, s1, h1, h⟩ := Act.out_next h
      have hhook : s1.Settled := (bdosHook_afKept h1).settled hs
      split at h
      · cases h; exact hhook
      · exact runInstr_settled h hhook
    · exact runInstr_settled h hs

/-- An acceptance leaves the operand buffer empty whatever its instruction fetched (60_exceptions.md R274). -/
theorem acceptInterrupt_settled {inst : IrqInst} {s t : State} (h : acceptInterrupt inst s = .next t) (hs : s.flagsMasked) :
    t.Settled := by
  obtain ⟨_, s1, h1, h⟩ := Act.out_next h
  obtain ⟨_, _, _, haf, _⟩ := enterInterrupt_ok h1
  split at h <;> cases h
  next s3 h3 =>
    obtain ⟨i, s2, hfetch, hexec⟩ := Act.out_next h3
    have hf : s2.flagsMasked := flagsMasked_of_af ((fetchOperands_afKept hfetch).af.trans haf) hs
    exact ⟨(flagsFrame i s2 s3 hexec).2 hf, rfl⟩

theorem step_settled {s t : State} (h : step s = .next t) (hs : s.Settled) : t.Settled := by
  have hasked : (askCards s).Settled := ⟨hs.masked, hs.noBuffer⟩
  unfold step machineStep at h
  rw [busRefresh_eq] at h
  rcases boundaryCheck_cases s with ⟨inst, hb⟩ | hb | hb <;> rw [hb] at h
  · exact acceptInterrupt_settled h hasked.masked
  · exact cpuStep_settled h hasked
  · exact cpuStep_settled h hs

/-! ## The cards -/

/-- The part of the invariant about the cards: 18 slots (10_state.md R22), each card legal. -/
structure State.CardsLegal (s : State) : Prop where
  slotCount : s.slots.length = nSlots
  cards : ∀ sl, some sl ∈ s.slots → sl.card.legal

theorem BusRun.cardsLegal {s t : State} (h : BusRun s t) (hs : s.CardsLegal) : t.CardsLegal := by
  obtain ⟨ws, tr⟩ := h.trace
  exact ⟨tr.length_eq.trans hs.slotCount, tr.keeps Card.read_legal Card.write_legal hs.cards⟩

theorem Card.asked_legal {c : Card} (h : c.legal) : c.asked.legal := by
  cases c with
  | data d => exact h
  | serial d => exact h
  | other d => trivial

theorem mem_mapCards {f : Card → Card} {l : List (Option Slot)} {x : Slot} (h : some x ∈ mapCards f l) :
    ∃ sl, some sl ∈ l ∧ x.card = f sl.card := by
  obtain ⟨o, ho, e⟩ := List.mem_map.mp h
  obtain ⟨sl, rfl, rfl⟩ := Option.map_eq_some_iff.mp e
  exact ⟨sl, ho, rfl⟩

theorem askCards_cardsLegal {s : State} (hs : s.CardsLegal) : (askCards s).CardsLegal where
  slotCount := (List.length_map _).trans hs.slotCount
  cards x hx := by
    obtain ⟨sl, hsl, e⟩ := mem_mapCards hx
    rw [e]; exact Card.asked_legal (hs.cards sl hsl)

theorem step_cardsLegal {s t : State} (h : step s = .next t) (hs : s.CardsLegal) : t.CardsLegal := by
  rcases step_busRun h with run | run
  · exact run.cardsLegal hs
  · exact run.cardsLegal (askCards_cardsLegal hs)

/-! ## The invariant -/

/-- Settles O3: a step is bus accesses, after the cards were asked or without, which keep the cards legal; `F` and the operand
buffer are changed by instructions and by the acceptance only. -/
theorem stepKeepsInvariant : Obligations.StepKeepsInvariant := by
  intro s t inv h
  obtain ⟨hmasked, hcount, hcards, hqueue⟩ := inv
  have hcpu : t.Settled := step_settled h ⟨hmasked, hqueue⟩
  have hbus : t.CardsLegal := step_cardsLegal h ⟨hcount, hcards⟩
  exact ⟨hcpu.masked, hbus.slotCount, hbus.cards, hcpu.noBuffer⟩

/-- Settles O2: the reset value `0x02` of `F` is masked, and the bus is 18 empty slots. -/
theorem resetMeetsInvariant : Obligations.ResetMeetsInvariant where
  masked := by unfold State.flagsMasked; decide
  slotCount := rfl
  cards sl h := by simp [State.reset, List.mem_replicate] at h
  noBuffer := rfl

end Sys2Proof.Machine
end

section
/-! SUPPORT. The register file and the flag byte (10_state.md R11 to R16). -/

namespace Sys2Proof.Machine

/-! ## Pairs and halves (10_state.md R11) -/

namespace State

variable (s : State)

theorem get16_af_eq : s.get16 .af = pair (s.get8 .a) s.getF := (pair_hi8_lo8 s.regs.af).symm

theorem get16_bc_eq : s.get16 .bc = pair (s.get8 .b) (s.get8 .c) := (pair_hi8_lo8 s.regs.bc).symm

theorem get16_de_eq : s.get16 .de = pair (s.get8 .d) (s.get8 .e) := (pair_hi8_lo8 s.regs.de).symm

theorem get16_hl_eq : s.get16 .hl = pair (s.get8 .h) (s.get8 .l) := (pair_hi8_lo8 s.regs.hl).symm

/-- Two writes of different halves are both seen, in either order. -/
theorem get8_set8_set8 {x y : Reg8} (hxy : x ≠ y) (v w : Byte) :
    ((s.set8 x v).set8 y w).get8 x = v ∧ ((s.set8 x v).set8 y w).get8 y = w := by
  rw [get8_set8_ne _ _ hxy, get8_set8_same, get8_set8_same]
  exact ⟨rfl, rfl⟩

/-- The order of two writes of different halves does not matter to the pair they make. -/
theorem pair_set8_either_order {x y : Reg8} (hxy : x ≠ y) (v w : Byte) :
    pair (((s.set8 x v).set8 y w).get8 x) (((s.set8 x v).set8 y w).get8 y) = pair v w ∧
      pair (((s.set8 y w).set8 x v).get8 x) (((s.set8 y w).set8 x v).get8 y) = pair v w := by
  obtain ⟨h1, h2⟩ := s.get8_set8_set8 hxy v w
  obtain ⟨h3, h4⟩ := s.get8_set8_set8 hxy.symm w v
  exact ⟨by rw [h1, h2], by rw [h3, h4]⟩

end State

/-- Settles O10: a pair is its two halves, and a write of one half is seen there and nowhere else. -/
theorem pairsAndHalves : Obligations.PairsAndHalves := by
  intro s
  refine ⟨s.get16_af_eq, fun h l => ?_, fun h l => ?_, fun h l => ?_, fun v => ⟨rfl, rfl⟩, fun v => ⟨rfl, rfl⟩,
    fun v => ⟨rfl, rfl⟩, fun v => s.get8_set16_af v .a, fun r v => ?_, fun v => hi8_pair _ _⟩
  · rw [State.get16_bc_eq, State.get16_bc_eq]; exact s.pair_set8_either_order (by decide) h l
  · rw [State.get16_de_eq, State.get16_de_eq]; exact s.pair_set8_either_order (by decide) h l
  · rw [State.get16_hl_eq, State.get16_hl_eq]; exact s.pair_set8_either_order (by decide) h l
  · exact ⟨s.get8_set8_same r v, s.getF_set8 r v, fun r' hr => s.get8_set8_ne v hr⟩

/-! ## The flag byte (10_state.md R13 to R16) -/

theorem State.getF_setF (s : State) (v : Byte) : (s.setF v).getF = maskF v := lo8_pair _ _

/-- The constant bits of a masked `F` (10_state.md R14). -/
theorem State.flagsMasked.constBits {s : State} (h : s.flagsMasked) :
    s.getF.getLsbD 1 = true ∧ s.getF.getLsbD 3 = false ∧ s.getF.getLsbD 5 = false := by
  have bit (i : Nat) : (s.getF &&& 0x2A).getLsbD i = (0x02 : Byte).getLsbD i := congrArg (·.getLsbD i) h
  exact ⟨by simpa using bit 1, by simpa using bit 3, by simpa using bit 5⟩

theorem zspOf_setZsp (s : State) (v : Byte) : zspOf v (s.setZsp v) := by
  refine ⟨?_, ?_, ?_⟩
  · rw [State.flag_z_setZsp, Bool.beq_eq_decide_eq]
    exact decide_eq_decide.mpr BitVec.toNat_eq
  · rw [State.flag_s_setZsp]
    exact BitVec.msb_eq_decide v
  · rw [State.flag_p_setZsp, parity8, Bool.beq_eq_decide_eq]

/-- Settles O11: each clause is one law of `getF`, of the mask or of a flag write. -/
theorem flagByte : Obligations.FlagByte := by
  intro s
  refine ⟨⟨rfl, rfl, rfl, rfl, rfl⟩, State.flagsMasked.constBits, fun v => ?_, fun v => ?_, fun x b => ?_, fun v => ?_⟩
  · have hF : (s.setF v).getF = maskF v := s.getF_setF v
    exact ⟨hF, by rw [State.flagsMasked, hF]; exact State.constBits_maskF v⟩
  · have hF : (s.set16 .af v).getF = maskF (lo8 v) := s.getF_set16_af v
    exact ⟨hF, by rw [State.flagsMasked, hF]; exact State.constBits_maskF _⟩
  · exact ⟨s.flag_setFlag_same x b, fun y hy => s.flag_setFlag_ne b hy, s.constBits_setFlag x b,
      fun r => s.get8_setFlag x b r⟩
  · exact ⟨zspOf_setZsp s v, s.flag_c_setZsp v, s.flag_ac_setZsp v⟩

end Sys2Proof.Machine
end

section
/-! SUPPORT. CPU reset and bus clear (10_state.md R30, 70_reset_and_hazards.md R300, R301). -/

namespace Sys2Proof.Machine

/-- `bus.clear()` acts on each slot by itself. -/
theorem getElem?_mapCards (f : Card → Card) (l : List (Option Slot)) (n : Nat) :
    (mapCards f l)[n]? = l[n]?.map (Option.map fun sl => { sl with card := f sl.card }) := List.getElem?_map ..

/-- A cleared RAM card reads `0x00` at every address in its range (20_memory.md R46). -/
theorem DataCard.read_clear {c : DataCard} (hl : c.writeLocked = false) {a : Word}
    (ha : Machine.inRange c.startAdr c.adrRange a = true) : c.clear.read a = 0x00 := by
  have ha := of_decide_eq_true ha
  simp only [DataCard.read, DataCard.clear, hl, Bool.false_eq_true, if_false]
  exact Memory.read_filled _ _ (by omega)

/-- Settles O1: the registers and control bits are those `cpuClear` loads; a bus clear acts slot by slot, by kind of card. -/
theorem cpuAndBusReset : Obligations.CpuAndBusReset := by
  refine ⟨fun s => ?_, fun p => ⟨rfl, rfl⟩, rfl, rfl,
    fun s => ⟨rfl, List.length_map _, fun n => ⟨fun h => ?_, ?_⟩⟩⟩
  · have hA : hi8 Regs.reset.af = 0x00 := by decide
    have hF : lo8 Regs.reset.af = 0x02 := by decide
    exact ⟨hA, hF, rfl, rfl, rfl, rfl, rfl, rfl, rfl, rfl, rfl, rfl, rfl, rfl, rfl⟩
  · simp only [busClear, getElem?_mapCards, h, Option.map_some, Option.map_none]
  · intro card al h
    refine ⟨card.clear, by simp only [busClear, getElem?_mapCards, h, Option.map_some], ?_, ?_, ?_⟩
    · rintro c rfl
      refine ⟨fun hl => ?_, fun hl => ⟨c.clear, rfl, ?_, fun a ha => DataCard.read_clear hl ha⟩⟩
      · simp only [Card.clear, DataCard.clear, hl, if_true]
      · simp only [DataCard.clear, hl, Bool.false_eq_true, if_false]
    · rintro c rfl; rfl
    · rintro c rfl; rfl

end Sys2Proof.Machine
end

section
/-! SUPPORT. Fetch and decode agree: what the fetches of one instruction read is what `decode` reads from the same bytes
(30_encoding.md R80 to R83), from memory and from the interrupt operand buffer. -/

namespace Sys2Proof.Machine

/-! ## How many bytes an instruction takes (30_encoding.md R84) -/

/-- All `decode` can answer when it reads an instruction: its operands are the bytes after the opcode. -/
theorem decode_cons_ok {op : Byte} {bs rest : List Byte} {i : Instr} (h : decode (op :: bs) = .ok (i, rest)) :
    (operandCount op = 0 ∧ bs = rest ∧ i = decodeOp op 0 0) ∨
    (operandCount op = 1 ∧ ∃ b2, bs = b2 :: rest ∧ i = decodeOp op b2 0) ∨
    (∃ n b2 b3, operandCount op = n + 2 ∧ bs = b2 :: b3 :: rest ∧ i = decodeOp op b2 b3) := by
  simp only [decode] at h
  split at h
  · next hn => cases h; exact .inl ⟨hn, rfl, rfl⟩
  · next b2 rest hn => cases h; exact .inr (.inl ⟨hn, b2, rfl, rfl⟩)
  · next n b2 b3 rest hn => cases h; exact .inr (.inr ⟨n, b2, b3, hn, rfl, rfl⟩)
  · cases h

/-- `decode` refuses exactly when operand bytes are missing. -/
theorem decode_cons_error {op : Byte} {bs : List Byte} {e : DecodeError} (h : decode (op :: bs) = .error e) :
    (operandCount op = 1 ∧ bs = []) ∨ (∃ n, operandCount op = n + 2 ∧ bs = []) ∨
      (∃ n b2, operandCount op = n + 2 ∧ bs = [b2]) := by
  match hn : operandCount op, bs, h with
  | 0, bs, h => simp [decode, hn] at h
  | 1, [], _ => exact .inl ⟨rfl, rfl⟩
  | 1, b2 :: rest, h => simp [decode, hn] at h
  | n + 2, [], _ => exact .inr (.inl ⟨n, rfl, rfl⟩)
  | n + 2, [b2], _ => exact .inr (.inr ⟨n, b2, rfl, rfl⟩)
  | n + 2, b2 :: b3 :: rest, h => simp [decode, hn] at h

theorem fetchOperands_zero {op : Byte} (h : operandCount op = 0) (s : State) :
    fetchOperands op s = .ok (decodeOp op 0 0, s) := by simp only [fetchOperands, h]

theorem fetchOperands_one {op : Byte} (h : operandCount op = 1) (s : State) :
    fetchOperands op s = (fetch8 s).andThen fun b2 s1 => .ok (decodeOp op b2 0, s1) := by simp only [fetchOperands, h]

theorem fetchOperands_two {op : Byte} {n : Nat} (h : operandCount op = n + 2) (s : State) :
    fetchOperands op s = (fetch8 s).andThen fun b2 s1 => (fetch8 s1).andThen fun b3 s2 => .ok (decodeOp op b2 b3, s2) := by
  simp only [fetchOperands, h]

/-! ## Fetching from the operand buffer (30_encoding.md R80, 60_exceptions.md R274) -/

theorem fetch8_of_queue (s : State) (b : Byte) (rest : List Byte) :
    fetch8 { s with irqQueue := b :: rest } = .ok (b, { s with irqQueue := rest }) := rfl

/-- The operands of an instruction are taken from the buffer; the rest of the buffer stays. -/
theorem fetchOperands_of_queue {op : Byte} {bs rest : List Byte} {i : Instr} (h : decode (op :: bs) = .ok (i, rest)) (s : State) :
    fetchOperands op { s with irqQueue := bs } = .ok (i, { s with irqQueue := rest }) := by
  rcases decode_cons_ok h with ⟨hn, rfl, rfl⟩ | ⟨hn, b2, rfl, rfl⟩ | ⟨n, b2, b3, hn, rfl, rfl⟩
  · rw [fetchOperands_zero hn]
  · rw [fetchOperands_one hn, fetch8_of_queue, Act.andThen_of_ok]
  · rw [fetchOperands_two hn, fetch8_of_queue, Act.andThen_of_ok, fetch8_of_queue, Act.andThen_of_ok]

/-- With interrupts enabled and a card that requests, the step is an acceptance (60_exceptions.md R273). -/
theorem step_of_request {s : State} {inst : IrqInst} (he : s.interruptsEnabled = true)
    (hr : irqSlots s.params (askCards s).slots = some inst) : step s = acceptInterrupt inst (askCards s) := by
  have hb : boundaryCheck s = .accept inst (askCards s) := by simp only [boundaryCheck, he, hr, if_true]
  simp only [step, machineStep, busRefresh_eq, hb]

/-- An acceptance, once the interrupt is entered, executes what the card's three bytes decode to and empties the buffer. -/
theorem acceptInterrupt_of_decode {inst : IrqInst} {s s1 t : State} {i : Instr} {rest : List Byte}
    (henter : enterInterrupt inst s = .ok ((), s1)) (hd : decode [inst.b0, inst.b1, inst.b2] = .ok (i, rest))
    (hx : exec i { s1 with irqQueue := rest } = .next t) : acceptInterrupt inst s = .next { t with irqQueue := [] } := by
  obtain ⟨hq, _⟩ := enterInterrupt_ok henter
  have hfetch : fetchOperands inst.b0 s1 = .ok (i, { s1 with irqQueue := rest }) := by
    have hs1 : { s1 with irqQueue := [inst.b1, inst.b2] } = s1 := by rw [← hq]
    rw [← fetchOperands_of_queue hd s1, hs1]
  have hexecute : execute inst.b0 s1 = .next t := by rw [execute, hfetch, Act.out_of_ok, hx]
  rw [acceptInterrupt, henter, Act.out_of_ok, hexecute]
  rfl

/-- Settles O56: the boundary check makes the step an acceptance, and the operands of its instruction come from the buffer. -/
theorem acceptanceRunsCardInstruction : Obligations.AcceptanceRunsCardInstruction := by
  intro s inst he hr
  have hstep : step s = acceptInterrupt inst (askCards s) := step_of_request he hr
  refine ⟨hstep, fun s1 t i rest henter hd hx => ?_⟩
  obtain ⟨_, _, hpc, _, _⟩ := enterInterrupt_ok henter
  exact ⟨hpc, hstep.trans (acceptInterrupt_of_decode henter hd hx)⟩

/-! ## Fetching from memory (30_encoding.md R80) -/

/-- A read of `a` moves the fetch source from `a` to `a + 1`. -/
theorem fetch8_at {a : Word} {s t : State} {b : Byte} (hq : s.irqQueue = []) (h : memRead a s = .ok (b, t)) :
    fetch8 (s.set16 .pc a) = .ok (b, t.set16 .pc (a + 1)) := by
  have hr : memRead a (s.set16 .pc a) = .ok (b, t.set16 .pc a) := busRead_set16_ok h .pc a
  simp only [fetch8, State.set16_irqQueue, hq, State.get16_set16_pc, hr, Act.andThen_of_ok]
  rfl

theorem fetch8_at_error {a : Word} {s u : State} (hq : s.irqQueue = []) (h : memRead a s = .error (.endpointIoError u)) :
    fetch8 (s.set16 .pc a) = .error (.endpointIoError (u.set16 .pc a)) := by
  have hr : memRead a (s.set16 .pc a) = .error (.endpointIoError (u.set16 .pc a)) := busRead_set16_error h .pc a
  simp only [fetch8, State.set16_irqQueue, hq, State.get16_set16_pc, hr]
  rfl

theorem memRead_irqQueue {a : Word} {s t : State} {b : Byte} (h : memRead a s = .ok (b, t)) : t.irqQueue = s.irqQueue := by
  obtain ⟨e, _⟩ := memRead_ok h
  rw [e]

/-- The operands of an instruction whose bytes stand at `a`. -/
theorem fetchOperands_at {op : Byte} {bs : List Byte} {i : Instr} (h : decode (op :: bs) = .ok (i, [])) {a : Word} {s t : State}
    (hq : s.irqQueue = []) (hr : readsBytes bs a s t) :
    fetchOperands op (s.set16 .pc a) = .ok (i, t.set16 .pc (a + BitVec.ofNat 16 bs.length)) := by
  rcases decode_cons_ok h with ⟨hn, rfl, rfl⟩ | ⟨hn, b2, rfl, rfl⟩ | ⟨n, b2, b3, hn, rfl, rfl⟩
  · obtain rfl := hr
    rw [fetchOperands_zero hn]
    simp
  · obtain ⟨s1, h2, rfl⟩ := hr
    rw [fetchOperands_one hn, fetch8_at hq h2, Act.andThen_of_ok]
    rfl
  · obtain ⟨s1, h2, s2, h3, rfl⟩ := hr
    rw [fetchOperands_two hn, fetch8_at hq h2, Act.andThen_of_ok, fetch8_at ((memRead_irqQueue h2).trans hq) h3,
      Act.andThen_of_ok, BitVec.add_assoc]
    rfl

/-- The operands of an instruction whose bytes stand at `a` until a read fails. -/
theorem fetchOperands_at_error {op : Byte} {bs : List Byte} {e : DecodeError} (h : decode (op :: bs) = .error e) {a : Word}
    {s t u : State} (hq : s.irqQueue = []) (hr : readsBytes bs a s t)
    (hf : memRead (a + BitVec.ofNat 16 bs.length) t = .error (.endpointIoError u)) :
    fetchOperands op (s.set16 .pc a) = .error (.endpointIoError (u.set16 .pc (a + BitVec.ofNat 16 bs.length))) := by
  rcases decode_cons_error h with ⟨hn, rfl⟩ | ⟨n, hn, rfl⟩ | ⟨n, b2, hn, rfl⟩
  · obtain rfl := hr
    simp only [List.length_nil, BitVec.add_zero] at hf ⊢
    rw [fetchOperands_one hn, fetch8_at_error hq hf]
    rfl
  · obtain rfl := hr
    simp only [List.length_nil, BitVec.add_zero] at hf ⊢
    rw [fetchOperands_two hn, fetch8_at_error hq hf]
    rfl
  · obtain ⟨s1, h2, rfl⟩ := hr
    have h3 : memRead (a + 1) _ = .error (.endpointIoError u) := hf
    rw [fetchOperands_two hn, fetch8_at hq h2, Act.andThen_of_ok, fetch8_at_error ((memRead_irqQueue h2).trans hq) h3]
    rfl

theorem set16_pc_self (s : State) : s.set16 .pc (s.get16 .pc) = s := rfl

theorem add_ofNat_length_cons (a : Word) (b : Byte) (bs : List Byte) :
    a + BitVec.ofNat 16 (b :: bs).length = a + 1 + BitVec.ofNat 16 bs.length := by
  rw [List.length_cons, BitVec.ofNat_add, BitVec.add_comm (BitVec.ofNat 16 bs.length), BitVec.add_assoc]
  rfl

/-- Fetch and execute where the bytes read at `pc` decode to an instruction. -/
theorem runInstr_of_reads {s t : State} {bs : List Byte} {i : Instr} (hq : s.irqQueue = []) (hr : readsBytes bs (s.get16 .pc) s t)
    (hd : decode bs = .ok (i, [])) : runInstr s = exec i (t.set16 .pc (s.get16 .pc + BitVec.ofNat 16 bs.length)) := by
  cases bs with
  | nil => cases hd
  | cons op rest =>
    obtain ⟨s1, h1, hrest⟩ := hr
    have hop : fetch8 s = .ok (op, s1.set16 .pc (s.get16 .pc + 1)) := fetch8_at hq h1
    rw [runInstr, fetchInstr, hop, Act.andThen_of_ok, fetchOperands_at hd ((memRead_irqQueue h1).trans hq) hrest, Act.out_of_ok,
      add_ofNat_length_cons]

/-- Fetch where the next byte an instruction needs is read from a card whose endpoint fails (60_exceptions.md R265). -/
theorem runInstr_of_failing_read {s t u : State} {bs : List Byte} {e : DecodeError} (hq : s.irqQueue = [])
    (hr : readsBytes bs (s.get16 .pc) s t) (hd : decode bs = .error e)
    (hf : memRead (s.get16 .pc + BitVec.ofNat 16 bs.length) t = .error (.endpointIoError u)) :
    runInstr s = .fault (.endpointIoError (u.set16 .pc (s.get16 .pc + BitVec.ofNat 16 bs.length))) := by
  cases bs with
  | nil =>
    obtain rfl := hr
    simp only [List.length_nil, BitVec.add_zero] at hf ⊢
    have hop : fetch8 t = .error (.endpointIoError (u.set16 .pc (t.get16 .pc))) := fetch8_at_error hq hf
    rw [runInstr, fetchInstr, hop]
    rfl
  | cons op rest =>
    obtain ⟨s1, h1, hrest⟩ := hr
    rw [add_ofNat_length_cons] at hf ⊢
    have hop : fetch8 s = .ok (op, s1.set16 .pc (s.get16 .pc + 1)) := fetch8_at hq h1
    rw [runInstr, fetchInstr, hop, Act.andThen_of_ok, fetchOperands_at_error hd ((memRead_irqQueue h1).trans hq) hrest hf]
    rfl

/-- Bytes in data cards are read without any effect (20_memory.md R48). -/
theorem bytesAt.readsBytes {s : State} {a : Word} {bs : List Byte} (h : bytesAt s a bs) : readsBytes bs a s s := by
  induction bs generalizing a with
  | nil => rfl
  | cons b rest ih => exact ⟨s, memRead_of_peek h.1, ih h.2⟩

theorem bdosHook_of_pc {s : State} (h0 : s.get16 .pc ≠ 0x0000) (h5 : s.get16 .pc ≠ 0x0005) : bdosHook s = .ok (false, s) := by
  rw [bdosHook, if_neg h0, if_neg h5]

/-- A step about to fetch from memory is fetch and execute (30_encoding.md R82). -/
theorem step_of_plainFetch {s : State} (h : s.plainFetch) : step s = runInstr s := by
  obtain ⟨hh, _, hb, hshim⟩ := h
  have hcpu : step s = cpuStep s := by simp only [step, machineStep, busRefresh_eq, hb]
  rw [hcpu, cpuStep, hh, if_neg Bool.false_ne_true]
  split
  · next hp =>
    obtain ⟨h0, h5⟩ := hshim.resolve_left (by rw [hp]; exact Bool.noConfusion)
    rw [bdosHook_of_pc h0 h5, Act.out_of_ok, if_neg Bool.false_ne_true]
  · rfl

/-- Settles O8: such a step is fetch and execute, and the fetches read the bytes `decode` reads. -/
theorem stepRunsDecodedInstruction : Obligations.StepRunsDecodedInstruction := by
  refine ⟨fun s bs i hp hb hd => ?_, fun s hp => step_of_plainFetch hp,
    fun s t bs hq hr => ⟨fun i hd => ?_, fun e u hd hf => ?_⟩⟩
  · have hstep : step s = runInstr s := step_of_plainFetch hp
    obtain ⟨_, hq, _⟩ := hp
    exact hstep.trans (runInstr_of_reads hq hb.readsBytes hd)
  · exact runInstr_of_reads hq hr hd
  · exact runInstr_of_failing_read hq hr hd hf

end Sys2Proof.Machine
end

section
/-! SUPPORT. `POP` after `PUSH` of one pair (45_stack_io_control.md R200 to R205). -/

namespace Sys2Proof.Machine

/-- A CPU write where RAM answers: the byte is stored, every other byte of the memory space and the RAM stay. -/
theorem memWrite_ram {a : Word} {s : State} (v : Byte) (hh : s.healthy) (hr : s.ramAt a = true) :
    ∃ t, memWrite a v s = .ok ((), t) ∧ t = { s with slots := t.slots } ∧ t.healthy ∧ t.peek false a = some v ∧
      (∀ b, b ≠ a → t.peek false b = s.peek false b) ∧ ∀ b, t.ramAt b = s.ramAt b := by
  obtain ⟨l1, hw, hl⟩ := writeSlots_healthy false a v false hh
  have hok : memWrite a v s = .ok ((), { s with slots := l1 }) := by simp only [memWrite, busWrite, busWriteWith, hw]
  refine ⟨_, hok, rfl, hl, peekSlots_wrote (writeSlots_ok hw) hr, fun b hb => ?_,
    fun b => ramSlots_wrote (writeSlots_ok hw) b false⟩
  exact (memWrite_ok hok).2.peek (by simpa using hb)

/-- `Push16` where RAM answers at both bytes (45_stack_io_control.md R200). -/
theorem push16_ram {s : State} (v : Word) (hh : s.healthy) (h2 : s.ramAt (s.get16 .sp - 2) = true)
    (h1 : s.ramAt (s.get16 .sp - 1) = true) :
    ∃ t, push16 v s = .ok ((), t) ∧ t.regs = { s.regs with sp := s.regs.sp - 2 } ∧
      t.peek false (s.get16 .sp - 2) = some (lo8 v) ∧ t.peek false (s.get16 .sp - 1) = some (hi8 v) ∧
      ∀ a, a ≠ s.get16 .sp - 2 → a ≠ s.get16 .sp - 1 → t.peek false a = s.peek false a := by
  have hsucc : s.get16 .sp - 2 + 1 = s.get16 .sp - 1 := by bv_omega
  have hne : s.get16 .sp - 2 ≠ s.get16 .sp - 1 := by bv_omega
  obtain ⟨u, hu, eu, hhu, hlo, hsameu, hram⟩ :=
    memWrite_ram (s := s.set16 .sp (s.get16 .sp - 2)) (lo8 v) hh h2
  obtain ⟨t, ht, et, _, hhi, hsamet, _⟩ := memWrite_ram (hi8 v) hhu ((hram _).trans h1)
  refine ⟨t, ?_, ?_, (hsamet _ hne).trans hlo, hhi, fun a ha2 ha1 => (hsamet a ha1).trans (hsameu a ha2)⟩
  · rw [push16, memWrite2, hu, Act.andThen_of_ok, hsucc, ht]
  · rw [et, eu]; rfl

/-- `Pop16` where data cards answer at both bytes (45_stack_io_control.md R201). -/
theorem pop16_of_peek {s : State} {lo hi : Byte} (hlo : s.peek false (s.get16 .sp) = some lo)
    (hhi : s.peek false (s.get16 .sp + 1) = some hi) : pop16 s = .ok (pair hi lo, s.set16 .sp (s.get16 .sp + 2)) := by
  rw [pop16, memRead2_of_peek hlo hhi, Act.andThen_of_ok]

theorem exec_push (x : StackPair) (s : State) : exec (Fam.push x) s = pushPair x s := by cases x <;> rfl

theorem exec_pop (x : StackPair) (s : State) : exec (Fam.pop x) s = popPair x s := by cases x <;> rfl

/-- The mask leaves a masked byte as it is (10_state.md R14). -/
theorem maskF_of_masked {v : Byte} (h : v &&& 0x2A = 0x02) : maskF v = v :=
  calc maskF v = (v &&& 0xD7) ||| (v &&& 0x2A) := by rw [h, maskF]
    _ = v &&& (0xD7 ||| 0x2A) := BitVec.and_or_distrib_left.symm
    _ = v := BitVec.and_allOnes

/-- A stack pair written back to its cell, `F` being masked, leaves the registers as they are (45_stack_io_control.md R205). -/
theorem set16_stackCell_self {s : State} (x : StackPair) (hm : s.flagsMasked) :
    s.regs.set16 (stackCell x) (s.get16 (stackCell x)) = s.regs := by
  cases x
  case psw =>
    have hF : maskF (lo8 s.regs.af) = lo8 s.regs.af := maskF_of_masked hm
    simp only [stackCell, State.get16, Regs.get16, Regs.set16, hF, pair_hi8_lo8]
  all_goals rfl

/-- Settles O37: `PUSH` stores the pair in the two bytes, `POP` reads them and restores `SP` and the cell. -/
theorem pushThenPop : Obligations.PushThenPop := by
  intro s x hh hm h2 h1
  obtain ⟨t, hpush, hregs, hlo, hhi, hsame⟩ := push16_ram (s.get16 (stackCell x)) hh h2 h1
  have hsp : t.get16 .sp = s.get16 .sp - 2 := congrArg Regs.sp hregs
  have hsucc : s.get16 .sp - 2 + 1 = s.get16 .sp - 1 := by bv_omega
  have hback : s.get16 .sp - 2 + 2 = s.get16 .sp := by bv_omega
  have hpop : pop16 t = .ok (s.get16 (stackCell x), t.set16 .sp (s.get16 .sp)) := by
    rw [pop16_of_peek (by rw [hsp]; exact hlo) (by rw [hsp, hsucc]; exact hhi), pair_hi8_lo8, hsp, hback]
  have hrestored : (t.set16 .sp (s.get16 .sp)).regs = s.regs := by
    show t.regs.set16 .sp s.regs.sp = s.regs
    rw [hregs]; rfl
  refine ⟨t, (t.set16 .sp (s.get16 .sp)).set16 (stackCell x) (s.get16 (stackCell x)), ?_, hsp, hlo, hhi, ?_, ?_, hsame⟩
  · rw [exec_push, pushPair, hpush, Act.done_of_ok]
  · rw [exec_pop, popPair, hpop, Act.out_of_ok]
  · show (t.set16 .sp (s.get16 .sp)).regs.set16 _ _ = s.regs
    rw [hrestored]; exact set16_stackCell_self x hm

end Sys2Proof.Machine
end

section
/-! SUPPORT. What an instruction stores to, and that a defined one completes where no endpoint fails (20_memory.md R52, R58,
60_exceptions.md R265, R267). -/

namespace Sys2Proof.Machine

/-! ## Bytes outside the writes of an instruction (20_memory.md R58) -/

theorem mem_portsWritten {i : Instr} {a : Word} {io : Bool} (h : (a, io) ∈ portsWritten i) :
    io = true ∧ ∃ p, i = .outPort p ∧ a = portAddr p := by
  unfold portsWritten at h
  split at h
  · next p =>
    obtain ⟨rfl, rfl⟩ := Prod.mk.inj (List.mem_singleton.mp h)
    exact ⟨rfl, p, rfl, rfl⟩
  · exact absurd h List.not_mem_nil

/-- An instruction writes the memory space where it stores and the port space where it is `OUT`. -/
theorem mem_accessesOf {i : Instr} {s : State} {a : Word} {io : Bool} (h : (a, io) ∈ accessesOf s i) :
    (io = false ∧ a ∈ storesAt s i) ∨ (io = true ∧ ∃ p, i = .outPort p ∧ a = portAddr p) := by
  rcases List.mem_append.mp h with h | h
  · obtain ⟨b, hb, e⟩ := List.mem_map.mp h
    obtain ⟨rfl, rfl⟩ := Prod.mk.inj e
    exact .inl ⟨rfl, hb⟩
  · exact .inr (mem_portsWritten h)

/-- Settles O45: an instruction is bus accesses, and a byte reads as before where none of them writes. -/
theorem memoryFrame : Obligations.MemoryFrame := by
  intro i s t h
  have acc : Accessed (accessesOf s i) s t := exec_accessed h
  refine ⟨fun a ha => acc.peek fun hm => ?_, fun a ha => acc.peek fun hm => ?_⟩
  · rcases mem_accessesOf hm with ⟨_, hs⟩ | ⟨hio, _⟩
    · exact ha hs
    · cases hio
  · rcases mem_accessesOf hm with ⟨hio, _⟩ | ⟨_, p, hp, e⟩
    · cases hio
    · exact ha p hp e

/-! ## Completion (60_exceptions.md R265, R267) -/

/-- The action completes, and no endpoint fails after it. -/
def Act.Completes {α : Type} (r : Act α) : Prop := ∃ x t, r = .ok (x, t) ∧ t.healthy

/-- The outcome is a next state in which no endpoint fails. -/
def Completes (o : Out) : Prop := ∃ t, o = .next t ∧ t.healthy

theorem Act.Completes.out {α : Type} {r : Act α} {k : α → State → Out} (h : r.Completes)
    (hk : ∀ x t, t.healthy → Machine.Completes (k x t)) : Machine.Completes (r.out k) := by
  obtain ⟨x, t, rfl, ht⟩ := h
  exact hk x t ht

theorem Act.Completes.andThen {α β : Type} {r : Act α} {k : α → State → Act β} (h : r.Completes)
    (hk : ∀ x t, t.healthy → (k x t).Completes) : (r.andThen k).Completes := by
  obtain ⟨x, t, rfl, ht⟩ := h
  exact hk x t ht

theorem Act.Completes.done {r : Act Unit} (h : r.Completes) : Machine.Completes r.done :=
  h.out fun _ t ht => ⟨t, rfl, ht⟩

section
variable {s : State} (hh : s.healthy)
include hh

theorem busRead_completes (a : Word) (io : Bool) : (busRead a io s).Completes := by
  obtain ⟨v, t, h, _, ht⟩ := busRead_healthy a io hh
  exact ⟨v, t, h, ht⟩

theorem busWrite_completes (a : Word) (v : Byte) (io : Bool) : (busWrite a v io s).Completes := by
  obtain ⟨t, h, _, ht⟩ := busWrite_healthy a v io hh
  exact ⟨(), t, h, ht⟩

theorem memRead_completes (a : Word) : (memRead a s).Completes := busRead_completes hh a false

theorem memWrite_completes (a : Word) (v : Byte) : (memWrite a v s).Completes := busWrite_completes hh a v false

theorem memRead2_completes (a : Word) : (memRead2 a s).Completes := by
  obtain ⟨v, t, h, _, ht⟩ := memRead2_healthy a hh
  exact ⟨v, t, h, ht⟩

theorem memWrite2_completes (a v : Word) : (memWrite2 a v s).Completes := by
  obtain ⟨t, h, _, ht⟩ := memWrite2_healthy a v hh
  exact ⟨(), t, h, ht⟩

theorem push16_completes (v : Word) : (push16 v s).Completes := by
  obtain ⟨t, h, ht⟩ := push16_healthy v hh
  exact ⟨(), t, h, ht⟩

theorem pop16_completes : (pop16 s).Completes := pop16_healthy hh

theorem returnFromCall_completes : (returnFromCall s).Completes :=
  (pop16_completes hh).andThen fun _ _ ht => ⟨(), _, rfl, ht⟩

theorem readR8_completes (x : R8Sel) : (readR8 x s).Completes := by
  obtain ⟨v, t, h, _, ht⟩ := readR8_healthy x hh
  exact ⟨v, t, h, ht⟩

theorem writeR8_completes (x : R8Sel) (v : Byte) : (writeR8 x v s).Completes := by
  obtain ⟨t, h, ht⟩ := writeR8_healthy x v hh
  exact ⟨(), t, h, ht⟩

/-- Port input needs the card bus (60_exceptions.md R264). -/
theorem ioRead_completes (hb : s.params.flatArrayBus = false) (p : Byte) : (ioRead p s).Completes := by
  rw [ioRead, hb, if_neg Bool.false_ne_true]
  exact busRead_completes hh _ true

theorem ioWrite_completes (hb : s.params.flatArrayBus = false) (p v : Byte) : (ioWrite p v s).Completes := by
  rw [ioWrite, hb, if_neg Bool.false_ne_true]
  exact busWrite_completes hh _ v true

/-! ## The shared operations of the families -/

/-- A change of registers and control bits only. -/
theorem completes_next {t : State} (hl : t.slots = s.slots) : Completes (.next t) :=
  ⟨t, rfl, fun sl hsl => hh sl (hl ▸ hsl)⟩

theorem aluOperand_completes (op : AluOp) (x : R8Sel) : Completes (aluOperand op x s) :=
  (readR8_completes hh x).out fun v t ht => completes_next ht (by rw [aluApply_regs])

theorem increment_completes (x : R8Sel) : Completes (increment x s) :=
  (readR8_completes hh x).out fun v t ht =>
    (writeR8_completes (s := t.setFlag .ac (acIncrement v)) ht x (v + 1)).out fun _ _ hu => completes_next hu rfl

theorem decrement_completes (x : R8Sel) : Completes (decrement x s) :=
  (readR8_completes hh x).out fun v t ht =>
    (writeR8_completes (s := t.setFlag .ac (acDecrement v)) ht x (v - 1)).out fun _ _ hu => completes_next hu rfl

theorem loadRM_completes (dst : Reg8) : Completes (loadRM dst s) :=
  (readR8_completes hh .m).out fun _ _ ht => completes_next ht rfl

theorem callTo_completes (target : Word) : Completes (callTo target s) :=
  (push16_completes hh _).out fun _ _ ht => completes_next ht rfl

theorem callIf_completes (cc : Cond) (a16 : Word) : Completes (callIf cc a16 s) := by
  unfold callIf
  split
  · exact callTo_completes hh a16
  · exact completes_next hh rfl

theorem jumpIf_completes (cc : Cond) (a16 : Word) : Completes (jumpIf cc a16 s) :=
  completes_next hh (by split <;> rfl)

theorem returnIf_completes (cc : Cond) : Completes (returnIf cc s) := by
  unfold returnIf
  split
  · exact (returnFromCall_completes hh).done
  · exact completes_next hh rfl

theorem popPair_completes (x : StackPair) : Completes (popPair x s) :=
  (pop16_completes hh).out fun _ _ ht => completes_next ht rfl

theorem exchangeTop_completes : Completes (exchangeTop s) :=
  (memRead2_completes hh _).out fun _ _ ht => (memWrite2_completes ht _ _).out fun _ _ hu => completes_next hu rfl

/-- Every defined instruction; the flat-array variant leaves out `IN` and `OUT`. -/
theorem exec_completes {i : Instr} (hd : i.defined = true)
    (hb : s.params.flatArrayBus = false ∨ ∀ p, i ≠ .inPort p ∧ i ≠ .outPort p) : Completes (exec i s) := by
  cases i
  case undefinedOpcode => cases hd
  case inPort p =>
    have hb : s.params.flatArrayBus = false := hb.resolve_right fun h => (h p).1 rfl
    exact (ioRead_completes hh hb p).out fun _ _ ht => completes_next ht rfl
  case outPort p =>
    have hb : s.params.flatArrayBus = false := hb.resolve_right fun h => (h p).2 rfl
    exact (ioWrite_completes hh hb p _).done
  case staxB | staxD | sta => exact (memWrite_completes hh _ _).done
  case movMB | movMC | movMD | movME | movMH | movML | movMA | mviM => exact (writeR8_completes hh .m _).done
  case ldaxB | ldaxD | lda => exact (memRead_completes hh _).out fun _ _ ht => completes_next ht rfl
  case movBM | movCM | movDM | movEM | movHM | movLM | movAM => exact loadRM_completes hh _
  case shld => exact (memWrite2_completes hh _ _).done
  case lhld => exact (memRead2_completes hh _).out fun _ _ ht => completes_next ht rfl
  case inrM => exact increment_completes hh .m
  case dcrM => exact decrement_completes hh .m
  case addM | adcM | subM | sbbM | anaM | xraM | oraM | cmpM => exact aluOperand_completes hh _ .m
  case addA | addB | addC | addD | addE | addH | addL | adcA | adcB | adcC | adcD | adcE | adcH | adcL | subA | subB | subC
      | subD | subE | subH | subL | sbbA | sbbB | sbbC | sbbD | sbbE | sbbH | sbbL | anaA | anaB | anaC | anaD | anaE | anaH
      | anaL | xraA | xraB | xraC | xraD | xraE | xraH | xraL | oraA | oraB | oraC | oraD | oraE | oraH | oraL | cmpA | cmpB
      | cmpC | cmpD | cmpE | cmpH | cmpL =>
    exact aluOperand_completes hh _ (.reg _)
  case jnz | jz | jnc | jc | jpo | jpe | jp | jm => exact jumpIf_completes hh _ _
  case rst0 | rst1 | rst2 | rst3 | rst4 | rst5 | rst6 | rst7 | call => exact callTo_completes hh _
  case cnz | cz | cnc | cc | cpo | cpe | cp | cm => exact callIf_completes hh _ _
  case ret => exact (returnFromCall_completes hh).done
  case rnz | rz | rnc | rc | rpo | rpe | rp | rm => exact returnIf_completes hh _
  case pushB | pushD | pushH | pushPsw => exact (push16_completes hh _).done
  case popB | popD | popH | popPsw => exact popPair_completes hh _
  case xthl => exact exchangeTop_completes hh
  all_goals exact completes_next hh rfl

end

/-- Settles O46: an instruction is reads and writes of the bus, which complete, and changes of registers and control bits. -/
theorem definedInstructionsComplete : Obligations.DefinedInstructionsComplete := fun _ _ hd hh hb => exec_completes hh hd hb

end Sys2Proof.Machine
end

section
/-! SUPPORT. The multiplexer slot by slot: which card a read takes, which cards a write reaches (20_memory.md R40, R41, R46, R48,
R49), and a byte written to RAM or ROM (R61). -/

namespace Sys2Proof.Machine

/-! ## The address decoder (20_memory.md R40, R41) -/

theorem answers_iff_of_inRange {c : Card} {a start : Word} {range : Nat} {io : Bool}
    (h : c.inRange a = Machine.inRange start range a) :
    c.answers a io = true ↔ c.isIo = io ∧ start.toNat ≤ a.toNat ∧ a.toNat < start.toNat + range := by
  rw [Card.answers, h, Bool.and_eq_true, beq_iff_eq, Machine.inRange, decide_eq_true_iff]
  exact And.comm

theorem DataCard.answers_iff (c : DataCard) (a : Word) (io : Bool) : (Card.data c).answers a io = true ↔
    c.isIo = io ∧ c.startAdr.toNat ≤ a.toNat ∧ a.toNat < c.startAdr.toNat + c.adrRange := answers_iff_of_inRange rfl

theorem OtherCard.answers_iff (c : OtherCard) (a : Word) (io : Bool) : (Card.other c).answers a io = true ↔
    c.isIo = io ∧ c.startAdr.toNat ≤ a.toNat ∧ a.toNat < c.startAdr.toNat + c.adrRange := answers_iff_of_inRange rfl

/-! ## Reads (20_memory.md R48) -/

/-- A list of slots has at most one first card that answers. -/
theorem first_answering_unique {a : Word} {io : Bool} {pre pre' post post' : List (Option Slot)} {sl sl' : Slot}
    (h : pre ++ some sl :: post = pre' ++ some sl' :: post') (hpre : ∀ x, some x ∈ pre → x.answers a io = false)
    (hpre' : ∀ x, some x ∈ pre' → x.answers a io = false) (hsl : sl.answers a io = true) (hsl' : sl'.answers a io = true) :
    pre = pre' ∧ sl = sl' ∧ post = post' := by
  induction pre generalizing pre' with
  | nil =>
    cases pre' with
    | nil => cases h; exact ⟨rfl, rfl, rfl⟩
    | cons e r' => cases h; exact absurd (hsl.symm.trans (hpre' sl (List.mem_cons_self ..))) nofun
  | cons e r ih =>
    cases pre' with
    | nil => cases h; exact absurd (hsl'.symm.trans (hpre sl' (List.mem_cons_self ..))) nofun
    | cons e' r' =>
      obtain ⟨rfl, htail⟩ := List.cons.inj h
      obtain ⟨rfl, hrest⟩ :=
        ih htail (fun x hx => hpre x (List.mem_cons_of_mem _ hx)) fun x hx => hpre' x (List.mem_cons_of_mem _ hx)
      exact ⟨rfl, hrest⟩

theorem busRead_of_unmapped {s : State} {a : Word} {io : Bool} (h : s.unmapped io a) : busRead a io s = .ok (0xFF, s) := by
  rcases readSlots_cases (p := s.params) (a := a) (io := io) s.slots with ⟨h0, _⟩ | ⟨pre, sl, post, hs, _, hsl, _⟩
  · simp only [busRead, h0, badU8]
  · exact absurd (hsl.symm.trans (h sl (by simp [hs]))) nofun

/-- A read is the read of the first card that answers. -/
theorem busRead_of_first {s : State} {a : Word} {io : Bool} {pre post : List (Option Slot)} {sl : Slot}
    (hs : s.slots = pre ++ some sl :: post) (hpre : ∀ x, some x ∈ pre → x.answers a io = false)
    (hsl : sl.answers a io = true) :
    (∀ v c1, sl.card.read s.params a = .ok (v, c1) →
      busRead a io s = .ok (v, { s with slots := pre ++ some { sl with card := c1 } :: post })) ∧
    (∀ c1, sl.card.read s.params a = .error c1 →
      busRead a io s = .error (.endpointIoError { s with slots := pre ++ some { sl with card := c1 } :: post })) := by
  rcases readSlots_cases (p := s.params) (a := a) (io := io) s.slots with ⟨_, hn⟩ | ⟨pre', sl', post', hs', hpre', hsl', h0⟩
  · exact absurd (hsl.symm.trans (hn sl (by simp [hs]))) nofun
  · obtain ⟨rfl, rfl, rfl⟩ := first_answering_unique (hs.symm.trans hs') hpre hpre' hsl hsl'
    rcases h0 with ⟨v, c1, hr, h0⟩ | ⟨c1, hr, h0⟩ <;> rw [hr]
    · exact ⟨fun _ _ e => by cases e; simp only [busRead, h0], nofun⟩
    · exact ⟨nofun, fun _ e => by cases e; simp only [busRead, h0]⟩

/-- Settles O48: a read that no card answers, a read that a card answers first, and which accesses a card answers. -/
theorem firstMatchingCardIsRead : Obligations.FirstMatchingCardIsRead := fun _ a io =>
  ⟨busRead_of_unmapped, fun _ _ _ hs hpre hsl => busRead_of_first hs hpre hsl, fun c => ⟨c.answers_iff a io, rfl⟩,
    fun c => c.answers_iff a io⟩

/-! ## Writes (20_memory.md R49) -/

/-- A write that stops in later slots has written the slots before them (60_exceptions.md R265). -/
theorem writeSlots_append_error {force : Bool} {a : Word} {v : Byte} {io : Bool} {pre pre1 post post1 : List (Option Slot)}
    (hpre : List.Forall₂ (WroteSlot force a v io) pre pre1) (hpost : writeSlots force a v io post = .error post1) :
    writeSlots force a v io (pre ++ post) = .error (pre1 ++ post1) := by
  induction hpre with
  | nil => exact hpost
  | cons hh _ ih =>
    cases hh with
    | empty => simp only [List.cons_append, writeSlots, ih]
    | other sl hs => simp only [List.cons_append, writeSlots, hs, ih, Bool.false_eq_true, if_false]
    | wrote sl c1 hs hw => simp only [List.cons_append, writeSlots, hs, hw, ih, if_true]

theorem writeSlots_of_unmapped {force : Bool} {a : Word} {v : Byte} {io : Bool} {l : List (Option Slot)}
    (h : ∀ sl, some sl ∈ l → sl.answers a io = false) : writeSlots force a v io l = .ok l := by
  induction l with
  | nil => rfl
  | cons e rest ih =>
    have hrest := ih fun sl hs => h sl (List.mem_cons_of_mem _ hs)
    cases e with
    | none => simp only [writeSlots, hrest]
    | some sl => simp only [writeSlots, h sl (List.mem_cons_self ..), hrest, Bool.false_eq_true, if_false]

theorem DataCard.write_of_locked {c : DataCard} (h : c.writeLocked = true) (a : Word) (v : Byte) : c.write a v = c := by
  rw [DataCard.write, h, if_pos rfl]

theorem DataCard.write_of_unlocked {c : DataCard} (h : c.writeLocked = false) (a : Word) (v : Byte) :
    c.write a v = c.writeForce a v := by
  rw [DataCard.write, h, if_neg Bool.false_ne_true]

theorem DataCard.read_writeForce_same (c : DataCard) (a : Word) (v : Byte) : (c.writeForce a v).read a = v :=
  Memory.read_write_same ..

/-- Settles O49: a write that completes, one that no card answers, what it makes of a data card, one that stops. -/
theorem everyMatchingCardIsWritten : Obligations.EveryMatchingCardIsWritten := by
  intro s a v io
  refine ⟨fun hh => ?_, fun hu => ?_, fun c => ⟨fun hl => ?_, fun hl ha => ?_⟩, ?_⟩
  · obtain ⟨l1, hw, _⟩ := writeSlots_healthy false a v io hh
    exact ⟨{ s with slots := l1 }, by simp only [busWrite, busWriteWith, hw], rfl, writeSlots_ok hw⟩
  · simp only [busWrite, busWriteWith, writeSlots_of_unmapped hu]
  · rw [Card.write, if_neg Bool.false_ne_true, DataCard.write_of_locked hl]
  · have hw : (Card.data c).write false a v = .ok (.data (c.writeForce a v)) := by
      rw [Card.write, if_neg Bool.false_ne_true, DataCard.write_of_unlocked hl]
    refine ⟨_, hw, rfl, c.read_writeForce_same a v, fun b hb hne => ?_⟩
    exact Option.some.inj (Card.write_peekByte (fun e => hne (Prod.mk.inj e).1) ha hb hw)
  · intro pre pre1 sl post c1 hs hpre ha hc
    have hw : writeSlots false a v io (some sl :: post) = .error (some { sl with card := c1 } :: post) := by
      simp only [writeSlots, ha, hc, if_true]
    simp only [busWrite, busWriteWith, hs, writeSlots_append_error hpre hw]

/-! ## The write locks taken away (20_memory.md R46, R50) -/

/-- A data card with its lock taken away. -/
def Card.unlocked : Card → Card
  | .data c => .data { c with writeLocked := false }
  | .serial c => .serial c
  | .other c => .other c

/-- The slots with every ROM made RAM: what a forced write sees of them. -/
def unlockedSlots (l : List (Option Slot)) : List (Option Slot) := mapCards Card.unlocked l

theorem unlockedSlots_cons (sl : Slot) (l : List (Option Slot)) :
    unlockedSlots (some sl :: l) = some { sl with card := sl.card.unlocked } :: unlockedSlots l := rfl

theorem Card.answers_unlocked (c : Card) (a : Word) (io : Bool) : c.unlocked.answers a io = c.answers a io := by
  cases c <;> rfl

/-- A lock does not show in what is read. -/
theorem peekSlots_unlocked (a : Word) (io : Bool) (l : List (Option Slot)) :
    peekSlots a io (unlockedSlots l) = peekSlots a io l := by
  induction l with
  | nil => rfl
  | cons e rest ih =>
    cases e with
    | none => exact ih
    | some sl =>
      have ha : ({ sl with card := sl.card.unlocked } : Slot).answers a io = sl.answers a io := sl.card.answers_unlocked a io
      have hb : sl.card.unlocked.peekByte a = sl.card.peekByte a := by cases sl.card <;> rfl
      simp only [unlockedSlots_cons, peekSlots_cons, ha, hb, ih]

/-- Where a data card answers first, RAM does once the locks are taken away. -/
theorem ramSlots_unlocked_of_dataAt {s : State} {a : Word} (h : s.dataAt a) : ramSlots a false (unlockedSlots s.slots) = true := by
  obtain ⟨pre, sl, post, hs, hpre, hsl, c, hc⟩ := h
  rw [hs]
  clear hs
  induction pre with
  | nil =>
    obtain ⟨card, al⟩ := sl
    obtain rfl : card = .data c := hc
    have ha : ({ card := (Card.data c).unlocked, allowConflict := al } : Slot).answers a false = true := hsl
    simp only [List.nil_append, unlockedSlots_cons, ramSlots, ha, if_true]
    rfl
  | cons e rest ih =>
    have hrest := ih fun x hx => hpre x (List.mem_cons_of_mem _ hx)
    cases e with
    | none => exact hrest
    | some x =>
      have ha : ({ x with card := x.card.unlocked } : Slot).answers a false = false :=
        (x.card.answers_unlocked a false).trans (hpre x (List.mem_cons_self ..))
      simp only [List.cons_append, unlockedSlots_cons, ramSlots, ha, Bool.false_eq_true, if_false]
      exact hrest

/-! ## A byte written to RAM or ROM (20_memory.md R46, R61) -/

/-- Where ROM answers first, a CPU write leaves the byte `peek` shows. -/
theorem peekSlots_wrote_rom {a : Word} {v : Byte} {io : Bool} {l l1 : List (Option Slot)}
    (h : List.Forall₂ (WroteSlot false a v io) l l1) (hr : ramSlots a io l = false)
    (hd : ramSlots a io (unlockedSlots l) = true) : peekSlots a io l1 = peekSlots a io l := by
  induction h with
  | nil => rfl
  | cons hh _ ih =>
    cases hh with
    | empty => exact ih hr hd
    | other sl hs =>
      have hu : ({ sl with card := sl.card.unlocked } : Slot).answers a io = false := (sl.card.answers_unlocked a io).trans hs
      simp only [unlockedSlots_cons, ramSlots, hs, hu, Bool.false_eq_true, if_false] at hr hd
      simp only [peekSlots_cons, hs, Bool.false_eq_true, if_false]
      exact ih hr hd
    | wrote sl c1 hs hw =>
      obtain ⟨card, al⟩ := sl
      have hu : ({ card := card.unlocked, allowConflict := al } : Slot).answers a io = true :=
        (card.answers_unlocked a io).trans hs
      simp only [unlockedSlots_cons, ramSlots, hs, hu, if_true] at hr hd
      cases card with
      | data c =>
        have hl : c.writeLocked = true := by simpa using hr
        have e : c1 = .data c := by
          rw [Card.write, if_neg Bool.false_ne_true, DataCard.write_of_locked hl] at hw
          cases hw; rfl
        simp only [e, peekSlots_cons, hs, if_true]
      | serial c => cases hd
      | other c => cases hd

/-- Settles O50: the write reaches every card that answers; the first of them shows the byte written or, locked, the old one. -/
theorem writtenByteIsRead : Obligations.WrittenByteIsRead := by
  intro s a v hh
  obtain ⟨l1, hw, _⟩ := writeSlots_healthy false a v false hh
  have hok : memWrite a v s = .ok ((), { s with slots := l1 }) := by simp only [memWrite, busWrite, busWriteWith, hw]
  refine ⟨_, hok, fun hr => ?_, fun hr hd => ?_, fun b io hb => (memWrite_ok hok).2.peek (by simpa using hb)⟩
  · have hp := peekSlots_wrote (writeSlots_ok hw) hr
    exact ⟨hp, memRead_of_peek hp⟩
  · exact peekSlots_wrote_rom (writeSlots_ok hw) hr (ramSlots_unlocked_of_dataAt hd)

end Sys2Proof.Machine
end

section
/-! SUPPORT. The host's operations: construction of cards, the slot registry (20_memory.md R42 to R44, R46) and the loader
(70_reset_and_hazards.md R305). -/

namespace Sys2Proof.Machine

/-! ## Construction (20_memory.md R46, 70_reset_and_hazards.md R302) -/

theorem DataCard.construct_of_long {range : Nat} {init : List Byte} (h : range < init.length) (start : Word) (io lock : Bool)
    (fill : Byte) : DataCard.construct start range io lock init fill = .error .invalidArgument := by
  rw [DataCard.construct, if_pos h]

theorem DataCard.construct_of_fits {range : Nat} {init : List Byte} (h : init.length ≤ range) (start : Word) (io lock : Bool)
    (fill : Byte) : DataCard.construct start range io lock init fill =
      .ok { startAdr := start, adrRange := range, isIo := io, writeLocked := lock, fill := fill,
            mem := Memory.ofBytes fill init } := by
  rw [DataCard.construct, if_neg (Nat.not_lt.mpr h)]

/-! ## What `insert` refuses (20_memory.md R42) -/

/-- The base of a serial card is the low byte of its start address (50_acia_6850.md R221). -/
theorem SerialCard.base_eq (c : SerialCard) : c.base = c.startAdr.toNat % 256 := by
  simp [SerialCard.base, lo8, BitVec.extractLsb'_toNat]

theorem Card.acceptable_iff {c : Card} :
    c.acceptable = true ↔ ∀ sc, c = .serial sc → sc.startAdr.toNat % 256 ≤ 0xFE := by
  cases c with
  | data d => exact iff_of_true rfl nofun
  | serial d =>
    rw [Card.acceptable, decide_eq_true_iff, SerialCard.base_eq]
    exact ⟨fun h sc e => by cases e; exact h, fun h => h d rfl⟩
  | other d => exact iff_of_true rfl nofun

theorem conflicts_iff {c : Card} {l : List (Option Slot)} : conflicts c l = true ↔
    ∃ (m : Nat) (sl : Slot), l[m]? = some (some sl) ∧ sl.allowConflict = false ∧ c.overlaps sl.card = true := by
  rw [conflicts, List.any_eq_true]
  constructor
  · rintro ⟨o, ho, h⟩
    cases o with
    | none => cases h
    | some sl =>
      obtain ⟨m, hm⟩ := List.mem_iff_getElem?.mp ho
      rw [Bool.and_eq_true, Bool.not_eq_true'] at h
      exact ⟨m, sl, hm, h⟩
  · rintro ⟨m, sl, hm, h⟩
    refine ⟨some sl, List.mem_of_getElem? hm, ?_⟩
    rw [Bool.and_eq_true, Bool.not_eq_true']
    exact h

/-! ## What `insert` lets in (20_memory.md R44) -/

theorem Card.overlaps_comm (c d : Card) : c.overlaps d = d.overlaps c := by
  rw [Card.overlaps, Card.overlaps, BEq.comm, decide_eq_decide.mpr and_comm]

/-- A card in no conflict with the slots that forbid one keeps them disjoint, whichever slot it is put in. -/
theorem State.slotsDisjoint.set {s : State} (hd : s.slotsDisjoint) {c : Card} (hc : ¬ conflicts c s.slots = true) (n : Nat)
    (al : Bool) : State.slotsDisjoint { s with slots := s.slots.set n (some { card := c, allowConflict := al }) } := by
  have hfree : ∀ {m : Nat} {sl : Slot}, s.slots[m]? = some (some sl) → sl.allowConflict = false → c.overlaps sl.card = false :=
    fun hm ha => Bool.eq_false_iff.mpr fun ho => hc (conflicts_iff.mpr ⟨_, _, hm, ha, ho⟩)
  have hnew : ∀ {x : Slot}, (s.slots.set n (some { card := c, allowConflict := al }))[n]? = some (some x) → x.card = c := by
    intro x hx
    rw [List.getElem?_set_self'] at hx
    obtain ⟨o, _, e⟩ := Option.map_eq_some_iff.mp hx
    cases e; rfl
  intro i j x y hij hx hy hax hay
  by_cases hi : i = n
  · subst hi
    rw [hnew hx]
    exact hfree ((List.getElem?_set_ne hij).symm.trans hy) hay
  · have hxi : s.slots[i]? = some (some x) := (List.getElem?_set_ne (Ne.symm hi)).symm.trans hx
    by_cases hj : j = n
    · subst hj
      rw [hnew hy, Card.overlaps_comm]
      exact hfree hxi hax
    · exact hd i j x y hij hxi ((List.getElem?_set_ne (Ne.symm hj)).symm.trans hy) hax hay

/-! ## What `remove` leaves (20_memory.md R43) -/

/-- An address only one slot served is unmapped once that slot is empty. -/
theorem unmapped_of_removed {s : State} {n : Nat} {a : Word} {io : Bool}
    (h : ∀ (m : Nat) (sl : Slot), m ≠ n → s.slots[m]? = some (some sl) → sl.answers a io = false) :
    State.unmapped { s with slots := s.slots.set n none } io a := by
  intro sl hsl
  obtain ⟨m, hm⟩ := List.mem_iff_getElem?.mp hsl
  have hne : m ≠ n := by
    rintro rfl
    rw [List.getElem?_set_self'] at hm
    obtain ⟨o, _, e⟩ := Option.map_eq_some_iff.mp hm
    cases e
  exact h m sl hne ((List.getElem?_set_ne hne.symm).symm.trans hm)

/-- Settles O51: construction, then each check of `insert` in turn, then `remove`. -/
theorem slotRegistry : Obligations.SlotRegistry := by
  refine ⟨fun start range io lock init fill => ⟨fun h => DataCard.construct_of_long h .., fun h => ?_⟩,
    fun _ _ _ _ => rfl, fun s hlen => ⟨fun _ _ => rfl, fun c n al hb => ?_, fun c n al hacc => ?_, fun n (hn : nSlots ≤ n) => ?_,
      fun n (hn : n < nSlots) => ?_⟩⟩
  · exact ⟨_, DataCard.construct_of_fits h .., rfl, Memory.wf_ofBytes fill init h, fun a _ _ => Memory.read_ofBytes ..⟩
  · have hacc : ¬ (Card.serial c).acceptable = true := fun h => by
      have := Card.acceptable_iff.mp h c rfl
      omega
    simp only [insertCard, hacc, Bool.not_false, if_true]
  · have hacc : c.acceptable = true := Card.acceptable_iff.mpr hacc
    have hrange : ∀ {o : Option Slot}, s.slots[n]? = some o → ¬ nSlots ≤ n := fun ho => by
      have hn : n < s.slots.length := (List.getElem?_eq_some_iff.mp ho).1
      omega
    refine ⟨fun (hn : nSlots ≤ n) => ?_, fun sl hsl => ?_, fun hempty => ⟨fun hconf => ?_, fun hfree => ?_⟩⟩
    · simp [insertCard, hacc, hn]
    · simp [insertCard, hacc, hrange hsl, hsl]
    · simp [insertCard, hacc, hrange hempty, hempty, conflicts_iff.mpr hconf]
    · have hfree : ¬ conflicts c s.slots = true := hfree ∘ conflicts_iff.mp
      exact ⟨_, by simp [insertCard, hacc, hrange hempty, hempty, hfree], rfl, fun hd => hd.set hfree n al⟩
  · rw [removeCard, if_pos hn]
  · exact ⟨_, by rw [removeCard, if_neg (Nat.not_le.mpr hn)], rfl, fun a io h => busRead_of_unmapped (unmapped_of_removed h)⟩

/-! ## Forced writes (20_memory.md R50) -/

theorem Card.write_unlocked {a : Word} {v : Byte} {c c1 : Card} (h : c.write true a v = .ok c1) :
    c.unlocked.write false a v = .ok c1.unlocked := by
  cases c with
  | data d => cases h; rfl
  | serial d =>
    simp only [Card.write] at h
    split at h <;> cases h
    next hw => simp only [Card.unlocked, Card.write, hw]
  | other d => cases h; rfl

/-- A forced write of the slots is a CPU write of the slots with the locks taken away. -/
theorem wroteSlots_unlocked {a : Word} {v : Byte} {io : Bool} {l l1 : List (Option Slot)}
    (h : List.Forall₂ (WroteSlot true a v io) l l1) :
    List.Forall₂ (WroteSlot false a v io) (unlockedSlots l) (unlockedSlots l1) := by
  induction h with
  | nil => exact .nil
  | cons hh _ ih =>
    refine .cons ?_ ih
    cases hh with
    | empty => exact .empty
    | other sl hs => exact .other _ ((sl.card.answers_unlocked a io).trans hs)
    | wrote sl c1 hs hw =>
      exact .wrote { sl with card := sl.card.unlocked } c1.unlocked ((sl.card.answers_unlocked a io).trans hs)
        (Card.write_unlocked hw)

/-- The first card to answer the address is a data card, seen on slots without locks. -/
def State.holdsByte (s : State) (a : Word) : Bool := ramSlots a false (unlockedSlots s.slots)

/-- A forced write completes where no endpoint fails; the byte is stored in RAM and ROM alike and no other byte changes. -/
theorem busWriteForce_stores {s : State} (hh : s.healthy) (a : Word) (v : Byte) :
    ∃ t, busWriteForce a v false s = .ok ((), t) ∧ onlyCards s t ∧ t.healthy ∧ (∀ b, t.holdsByte b = s.holdsByte b) ∧
      (s.holdsByte a = true → t.peek false a = some v) ∧
      ∀ b io, (b, io) ≠ (a, false) → t.peek io b = s.peek io b := by
  obtain ⟨l1, hw, hl⟩ := writeSlots_healthy true a v false hh
  have hf := wroteSlots_unlocked (writeSlots_ok hw)
  refine ⟨{ s with slots := l1 }, by simp only [busWriteForce, busWriteWith, hw], rfl, hl, fun b => ramSlots_wrote hf b false,
    fun hd => ?_, fun b io hne => ?_⟩
  · exact (peekSlots_unlocked a false l1).symm.trans (peekSlots_wrote hf hd)
  · have hp : peekSlots b io (unlockedSlots l1) = peekSlots b io (unlockedSlots s.slots) := by
      simpa using wroteSlots_peek hne hf (r := []) (r1 := []) rfl
    rwa [peekSlots_unlocked, peekSlots_unlocked] at hp

/-! ## The loader (70_reset_and_hazards.md R305) -/

/-- From `s` to `t` the bytes `bs` have been put at `a` and after it, into every data card that answers first, and nothing else
that `peek` shows has changed. -/
structure Loaded (bs : List Byte) (a : Word) (s t : State) : Prop where
  cards : onlyCards s t
  healthy : t.healthy
  holds : ∀ b, t.holdsByte b = s.holdsByte b
  stored : ∀ n (h : n < bs.length), s.holdsByte (a + BitVec.ofNat 16 n) = true →
    t.peek false (a + BitVec.ofNat 16 n) = some bs[n]
  kept : ∀ b io, (∀ n < bs.length, (b, io) ≠ (a + BitVec.ofNat 16 n, false)) → t.peek io b = s.peek io b

theorem add_ofNat_succ (a : Word) (n : Nat) : a + BitVec.ofNat 16 (n + 1) = a + 1 + BitVec.ofNat 16 n := by
  rw [BitVec.ofNat_add, BitVec.add_comm (BitVec.ofNat 16 n), BitVec.add_assoc]
  rfl

/-- An image no longer than the memory space does not come back to an address it has written. -/
theorem add_ofNat_succ_ne {a : Word} {n : Nat} (h : n + 1 < 0x10000) : a ≠ a + BitVec.ofNat 16 (n + 1) := by
  intro e
  have hn := congrArg BitVec.toNat e
  rw [BitVec.toNat_add, BitVec.toNat_ofNat] at hn
  omega

theorem writeImage_loads {bs : List Byte} {a : Word} {s : State} (hlen : bs.length ≤ 0x10000) (hh : s.healthy) :
    ∃ t, writeImage bs a s = .ok ((), t) ∧ Loaded bs a s t := by
  induction bs generalizing a s with
  | nil => exact ⟨s, rfl, rfl, hh, fun _ => rfl, nofun, fun _ _ _ => rfl⟩
  | cons v rest ih =>
    rw [List.length_cons] at hlen
    obtain ⟨u, hu, cu, hhu, du, su, ku⟩ := busWriteForce_stores hh a v
    obtain ⟨t, ht, ct, hht, dt, st, kt⟩ := ih (a := a + 1) (by omega) hhu
    refine ⟨t, by rw [writeImage, hu, Act.andThen_of_ok, ht], ?_, hht, fun b => (dt b).trans (du b), fun n hn hd => ?_,
      fun b io hb => ?_⟩
    · rw [onlyCards] at ct cu ⊢
      rw [ct, cu]
    · cases n with
      | zero =>
        rw [BitVec.add_zero] at hd ⊢
        refine (kt a false fun m hm e => ?_).trans (su hd)
        rw [← add_ofNat_succ] at e
        exact add_ofNat_succ_ne (by omega) (Prod.mk.inj e).1
      | succ m =>
        rw [add_ofNat_succ] at hd ⊢
        exact st m (Nat.lt_of_succ_lt_succ hn) ((du _).trans hd)
    · refine (kt b io fun m hm => ?_).trans (ku b io ?_)
      · rw [← add_ofNat_succ]; exact hb (m + 1) (Nat.succ_lt_succ hm)
      · simpa using hb 0 (Nat.succ_pos _)

/-- The image of the reset vector: `JMP offset` if it is asked for (70_reset_and_hazards.md R305). -/
def resetVector (auto : Bool) (offset : Word) : List Byte := if auto then [0xC3, lo8 offset, hi8 offset] else []

/-- A load that passes its checks writes the image, then the reset vector. -/
theorem load_of_fits {bytes : List Byte} {offset : Word} {auto : Bool} {s u t : State} (h0 : bytes.length ≠ 0)
    (hfit : offset.toNat + bytes.length ≤ 0x10000) (hvec : auto = true → 3 ≤ offset.toNat)
    (hu : writeImage bytes offset s = .ok ((), u)) (ht : writeImage (resetVector auto offset) 0 u = .ok ((), t)) :
    load bytes offset auto s = .ok t := by
  have hvec : ¬ (auto && decide (offset.toNat < 3)) = true := by
    rw [Bool.and_eq_true, decide_eq_true_iff]
    exact fun h => absurd (hvec h.1) (Nat.not_le.mpr h.2)
  rw [resetVector] at ht
  simp only [load, if_neg h0, if_neg (Nat.not_lt.mpr hfit), if_neg hvec, hu, Act.andThen_of_ok]
  rw [ht]

/-- An address of an image that fits, as a number. -/
theorem toNat_add_ofNat_of_fits {offset : Word} {n len : Nat} (hn : n < len) (h : offset.toNat + len ≤ 0x10000) :
    (offset + BitVec.ofNat 16 n).toNat = offset.toNat + n := by
  rw [BitVec.toNat_add, BitVec.toNat_ofNat]
  omega

theorem length_resetVector (auto : Bool) (offset : Word) : (resetVector auto offset).length = if auto then 3 else 0 := by
  cases auto <;> rfl

/-- What the reset vector keeps: every byte but those at `0x0000` to `0x0002`. -/
theorem Loaded.vector_kept {auto : Bool} {offset : Word} {s t : State} (h : Loaded (resetVector auto offset) 0 s t) {b : Word}
    {io : Bool} (hb : io = false → auto = true → 3 ≤ b.toNat) : t.peek io b = s.peek io b := by
  refine h.kept b io fun n hn e => ?_
  obtain ⟨rfl, rfl⟩ := Prod.mk.inj e
  rw [length_resetVector] at hn
  split at hn
  · next ha =>
    have h3 := hb rfl ha
    rw [toNat_add_ofNat_of_fits hn (by decide)] at h3
    exact absurd h3 (by simpa using hn)
  · omega

/-- Settles O52: the three checks in turn, then the image and after it the vector, which does not reach the image. -/
theorem loaderWrites : Obligations.LoaderWrites := by
  intro s bytes offset auto
  refine ⟨fun h0 => by rw [load, if_pos h0], fun h0 hbig => by rw [load, if_neg h0, if_pos hbig],
    fun h0 hfit ha hlow => ?_, fun h0 hfit hvec hh => ?_⟩
  · simp [load, h0, Nat.not_lt.mpr hfit, ha, hlow]
  · obtain ⟨u, hu, lu⟩ := writeImage_loads (bs := bytes) (a := offset) (by omega) hh
    obtain ⟨t, ht, lt⟩ := writeImage_loads (bs := resetVector auto offset) (a := 0)
      (by rw [length_resetVector]; split <;> omega) lu.healthy
    refine ⟨t, load_of_fits h0 hfit hvec hu ht, ?_, fun n hn hd => ?_, fun ha => ?_, fun a io hout => ?_⟩
    · have cu := lu.cards
      have ct := lt.cards
      rw [onlyCards] at cu ct ⊢
      rw [ct, cu]
    · refine (lt.vector_kept fun _ ha => ?_).trans (lu.stored n hn (ramSlots_unlocked_of_dataAt hd))
      rw [toNat_add_ofNat_of_fits hn hfit]
      exact Nat.le_add_right_of_le (hvec ha)
    · subst ha
      have hd : ∀ {b : Word}, s.dataAt b → u.holdsByte b = true := fun h => (lu.holds _).trans (ramSlots_unlocked_of_dataAt h)
      exact ⟨fun h => lt.stored 0 (Nat.succ_pos 2) (hd h), fun h => lt.stored 1 (Nat.one_lt_succ_succ 1) (hd h),
        fun h => lt.stored 2 (Nat.lt_succ_self 2) (hd h)⟩
    · refine (lt.vector_kept fun hio ha => (hout hio).2 ha).trans (lu.kept a io fun n hn e => ?_)
      obtain ⟨rfl, rfl⟩ := Prod.mk.inj e
      have hrange := (hout rfl).1
      rw [toNat_add_ofNat_of_fits hn hfit] at hrange
      omega

end Sys2Proof.Machine
end

section
/-! SUPPORT. The decoder and the encoder are inverse to each other: the rows of the opcode table both ways (30_encoding.md R84 to
R92). -/

namespace Sys2Proof

/-! ## Decoding what was encoded -/

/-- One of the twelve bytes has no operand and is decoded to the instruction that carries it (30_encoding.md R92). -/
theorem decodeOp_undefined {op : Byte} (h : op ∈ undefinedOpcodes) :
    operandCount op = 0 ∧ ∀ b2 b3, decodeOp op b2 b3 = .undefinedOpcode op := by
  simp only [undefinedOpcodes, List.mem_cons, List.not_mem_nil, or_false] at h
  rcases h with rfl | rfl | rfl | rfl | rfl | rfl | rfl | rfl | rfl | rfl | rfl | rfl <;> exact ⟨rfl, fun _ _ => rfl⟩

theorem decode_undefined {op : Byte} (h : op ∈ undefinedOpcodes) (rest : List Byte) :
    decode (op :: rest) = .ok (.undefinedOpcode op, rest) := by
  obtain ⟨hn, hd⟩ := decodeOp_undefined h
  simp only [decode, hn, hd]

/-- An instruction with an operand word: its two bytes, low byte first, are put together again (30_encoding.md R81). -/
theorem decode_word {i : Word → Instr} {op : Byte} (hn : operandCount op = 2)
    (hd : ∀ b2 b3, decodeOp op b2 b3 = i (pair b3 b2)) (w : Word) (rest : List Byte) :
    decode ([op, lo8 w, hi8 w] ++ rest) = .ok (i w, rest) := by
  simp only [List.cons_append, List.nil_append, decode, hn, hd, pair_hi8_lo8]

/-- Settles O5, by the rows of the opcode table: the twelve undefined bytes, the rows with an operand word, and the rest, where
the decoder copies its operand byte. -/
theorem decodeEncode : Obligations.DecodeEncode := by
  intro i rest hwf
  cases i
  case undefinedOpcode op => exact decode_undefined (List.contains_iff_mem.mp hwf) rest
  case lxiB w | lxiD w | lxiH w | lxiSp w | shld w | lhld w | sta w | lda w | jmp w | call w
      | jnz w | jz w | jnc w | jc w | jpo w | jpe w | jp w | jm w | cnz w | cz w | cnc w | cc w | cpo w | cpe w | cp w | cm w =>
    exact decode_word rfl (fun _ _ => rfl) w rest
  all_goals rfl

/-! ## Encoding what was decoded -/

/-- The `n` bytes after an opcode: the operand byte `d8`, or the operand word `w`, low byte first (30_encoding.md R81, R84). -/
def operandBytes : Nat → Byte → Word → List Byte
  | 0, _, _ => []
  | 1, d8, _ => [d8]
  | _ + 2, _, w => [lo8 w, hi8 w]

/-- `i` is the well-formed instruction of the table's row `op`, with operand `d8` or `w` where the row has one. -/
structure InRow (i : Instr) (op d8 : Byte) (w : Word) : Prop where
  wf : i.wf = true
  bytes : encode i = op :: operandBytes (operandCount op) d8 w

theorem code3_cases (c : BitVec 3) : c = 0 ∨ c = 1 ∨ c = 2 ∨ c = 3 ∨ c = 4 ∨ c = 5 ∨ c = 6 ∨ c = 7 := by
  revert c; decide

theorem code2_cases (c : BitVec 2) : c = 0 ∨ c = 1 ∨ c = 2 ∨ c = 3 := by
  revert c; decide

/-- An opcode is put together of its fields `op[7:6]`, `op[5:3]` and `op[2:0]` (30_encoding.md R84). -/
theorem opcode_fields (op : Byte) : ∃ (g : BitVec 2) (d s : BitVec 3), op = g ++ d ++ s :=
  ⟨fieldG op, fieldD op, fieldS op, by revert op; decide⟩

/-- What the decoder makes of the fields `g`, `d`, `s` of an opcode is the instruction of that opcode's row: the 256 rows, the
operands being free in each (30_encoding.md R90, R92). -/
theorem decodeOp_fields_inRow (g : BitVec 2) (d s : BitVec 3) (b2 b3 : Byte) :
    InRow (decodeOp (g ++ d ++ s) b2 b3) (g ++ d ++ s) b2 (pair b3 b2) := by
  rcases code2_cases g with rfl | rfl | rfl | rfl <;>
    rcases code3_cases s with rfl | rfl | rfl | rfl | rfl | rfl | rfl | rfl <;>
      rcases code3_cases d with rfl | rfl | rfl | rfl | rfl | rfl | rfl | rfl <;> exact ⟨rfl, rfl⟩

theorem decodeOp_inRow (op b2 b3 : Byte) : InRow (decodeOp op b2 b3) op b2 (pair b3 b2) := by
  obtain ⟨g, d, s, rfl⟩ := opcode_fields op
  exact decodeOp_fields_inRow g d s b2 b3

/-- Settles O6: the bytes `decode` takes are the opcode and the operand bytes of the row of the instruction it answers. -/
theorem encodeDecode : Obligations.EncodeDecode := by
  intro bs rest i h
  cases bs with
  | nil => cases h
  | cons op bs =>
    rcases Machine.decode_cons_ok h with ⟨hn, rfl, rfl⟩ | ⟨hn, b2, rfl, rfl⟩ | ⟨n, b2, b3, hn, rfl, rfl⟩
    · obtain ⟨hwf, hbytes⟩ := decodeOp_inRow op 0 0
      exact ⟨hwf, by rw [hbytes, hn]; rfl⟩
    · obtain ⟨hwf, hbytes⟩ := decodeOp_inRow op b2 0
      exact ⟨hwf, by rw [hbytes, hn]; rfl⟩
    · obtain ⟨hwf, hbytes⟩ := decodeOp_inRow op b2 b3
      refine ⟨hwf, ?_⟩
      rw [hbytes, hn, operandBytes, lo8_pair, hi8_pair]; rfl

/-! ## The bytes of a given instruction -/

/-- An instruction is decoded from its own bytes, whatever follows them. -/
theorem decodesTo_encode {i : Instr} (h : i.wf = true) : Machine.decodesTo (encode i) i := fun rest => decodeEncode i rest h

/-- Settles O7: the bytes the source shows are the encodings of the instructions it names. -/
theorem sourceBytesDecode : Obligations.SourceBytesDecode :=
  ⟨decodesTo_encode (i := .mviA 0x42) rfl, decodesTo_encode (i := .mviB 0x18) rfl, decodesTo_encode (i := .addB) rfl,
    decodesTo_encode (i := .hlt) rfl, decodesTo_encode (i := .inrA) rfl, decodesTo_encode (i := .adi 0x01) rfl,
    decodesTo_encode (i := .sui 0x01) rfl, decodesTo_encode (i := .xthl) rfl, decodesTo_encode (i := .rrc) rfl,
    fun offset => decodesTo_encode (i := .jmp offset) rfl⟩

end Sys2Proof
end

section
/-! SUPPORT. The twelve undefined bytes stop the machine, fetched from memory or supplied by a card (60_exceptions.md R261). -/

namespace Sys2Proof.Machine

/-! ## What taking an interrupt leaves (60_exceptions.md R274) -/

/-- A completed write where RAM answers leaves its byte there. -/
theorem memWrite_stores {a : Word} {v : Byte} {s t : State} (h : memWrite a v s = .ok ((), t)) (hr : s.ramAt a = true) :
    t.peek false a = some v := by
  simp only [memWrite, busWrite, busWriteWith] at h
  split at h
  · next hw => cases h; exact peekSlots_wrote (writeSlots_ok hw) hr
  · cases h

/-- A completed write leaves RAM where it was. -/
theorem memWrite_ramAt {a : Word} {v : Byte} {s t : State} (h : memWrite a v s = .ok ((), t)) (b : Word) :
    t.ramAt b = s.ramAt b := by
  simp only [memWrite, busWrite, busWriteWith] at h
  split at h
  · next hw => cases h; exact ramSlots_wrote (writeSlots_ok hw) b false
  · cases h

/-- A completed `Push16` leaves the low byte at `SP - 2` and the high byte at `SP - 1`, each where RAM answers there
(45_stack_io_control.md R200). -/
theorem push16_stores {v : Word} {s t : State} (h : push16 v s = .ok ((), t)) :
    (s.ramAt (s.get16 .sp - 2) = true → t.peek false (s.get16 .sp - 2) = some (lo8 v)) ∧
    (s.ramAt (s.get16 .sp - 1) = true → t.peek false (s.get16 .sp - 1) = some (hi8 v)) := by
  have hsucc : s.get16 .sp - 2 + 1 = s.get16 .sp - 1 := by bv_omega
  obtain ⟨_, s1, hlo, hhi⟩ := Act.andThen_ok h
  rw [hsucc] at hhi
  refine ⟨fun hr => ?_, fun hr => memWrite_stores hhi ((memWrite_ramAt hlo _).trans hr)⟩
  rw [(memWrite_ok hhi).2.peek (by simp)]
  exact memWrite_stores hlo hr

/-- The state in which an acceptance pushes `pc`: interrupts are disabled, and the halt is over when `IRQ_WAKES_HALT`. -/
def State.taken (s : State) : State :=
  { s with interruptsEnabled := false, halted := s.halted && !s.params.irqWakesHalt }

/-- Taking an interrupt without the push only fills the operand buffer. -/
theorem enterInterrupt_of_no_push {inst : IrqInst} {s u : State} (hp : s.params.irqAcceptPushesPc = false)
    (h : enterInterrupt inst s = .ok ((), u)) : u = { s.taken with irqQueue := [inst.b1, inst.b2] } := by
  simp only [enterInterrupt, hp, Bool.false_eq_true, if_false, Act.andThen_of_ok] at h
  cases h; rfl

/-- Taking an interrupt with the push: `pc` is pushed before the operand buffer is filled. -/
theorem enterInterrupt_of_push {inst : IrqInst} {s u : State} (hp : s.params.irqAcceptPushesPc = true)
    (h : enterInterrupt inst s = .ok ((), u)) :
    ∃ t, push16 (s.get16 .pc) s.taken = .ok ((), t) ∧ u = { t with irqQueue := [inst.b1, inst.b2] } := by
  simp only [enterInterrupt, hp, if_true] at h
  obtain ⟨_, t, hpush, h⟩ := Act.andThen_ok h
  cases h
  exact ⟨t, hpush, rfl⟩

/-- Taking an interrupt changes no register but `SP`; interrupts are disabled. -/
theorem enterInterrupt_frame {inst : IrqInst} {s u : State} (h : enterInterrupt inst s = .ok ((), u)) :
    u.interruptsEnabled = false ∧ u.halted = (s.halted && !s.params.irqWakesHalt) ∧
      u.regs = { s.regs with sp := u.regs.sp } := by
  cases hp : s.params.irqAcceptPushesPc with
  | false => obtain rfl := enterInterrupt_of_no_push hp h; exact ⟨rfl, rfl, rfl⟩
  | true =>
    obtain ⟨t, hpush, rfl⟩ := enterInterrupt_of_push hp h
    obtain ⟨e, _⟩ := push16_ok hpush
    rw [e]; exact ⟨rfl, rfl, rfl⟩

/-! ## The fault (60_exceptions.md R261) -/

theorem execute_undefined {op : Byte} (h : op ∈ undefinedOpcodes) (s : State) :
    execute op s = .fault (.unknownOpcode op s) := by
  obtain ⟨hn, hd⟩ := decodeOp_undefined h
  rw [execute, fetchOperands_zero hn, hd]; rfl

/-- Fetched from memory, an undefined byte stops the machine with `pc` past it. -/
theorem step_undefined {op : Byte} (h : op ∈ undefinedOpcodes) {s : State} (hp : s.plainFetch)
    (hb : s.peek false (s.get16 .pc) = some op) : step s = .fault (.unknownOpcode op (s.set16 .pc (s.get16 .pc + 1))) := by
  have hstep : step s = runInstr s := step_of_plainFetch hp
  obtain ⟨_, hq, _⟩ := hp
  have hbytes : bytesAt s (s.get16 .pc) [op] := ⟨hb, trivial⟩
  rw [hstep, runInstr_of_reads hq hbytes.readsBytes (decode_undefined h [])]; rfl

/-- Supplied by a card, an undefined byte stops the machine in the state in which the interrupt has been taken. -/
theorem acceptInterrupt_undefined {op b1 b2 : Byte} (h : op ∈ undefinedOpcodes) {s u : State}
    (henter : enterInterrupt ⟨op, b1, b2⟩ s = .ok ((), u)) :
    acceptInterrupt ⟨op, b1, b2⟩ s = .fault (.unknownOpcode op u) := by
  rw [acceptInterrupt, henter, Act.out_of_ok, execute_undefined h]

/-- Settles O9: an undefined byte has no operand, so nothing follows its fetch, or the taking of its interrupt, but the fault. -/
theorem undefinedOpcodesFault : Obligations.UndefinedOpcodesFault := by
  intro op hop
  refine ⟨decode_undefined hop, fun s => rfl, fun s hp hb => step_undefined hop hp hb, fun s u b1 b2 henter => ?_⟩
  obtain ⟨hie, hhalted, hregs⟩ := enterInterrupt_frame henter
  refine ⟨acceptInterrupt_undefined hop henter, hie, hhalted, fun r _ => ?_, ?_, ?_, ?_, ?_⟩
  · rw [State.get8, hregs]; cases r <;> rfl
  · rw [State.getF, hregs]; rfl
  · rw [State.get16, hregs]; rfl
  · intro hp
    obtain rfl := enterInterrupt_of_no_push hp henter
    exact ⟨rfl, rfl⟩
  · intro hp
    obtain ⟨t, hpush, rfl⟩ := enterInterrupt_of_push hp henter
    obtain ⟨e, _⟩ := push16_ok hpush
    obtain ⟨hlo, hhi⟩ := push16_stores hpush
    exact ⟨congrArg (fun v : State => v.regs.sp) e, fun _ => ⟨hlo, hhi⟩⟩

end Sys2Proof.Machine
end

section
/-! SUPPORT. The jumps (44_control_flow.md R185, R186, R192). -/

namespace Sys2Proof.Machine

theorem encode_jcc (cc : Cond) (a : Word) : encode (Fam.jcc a cc) = [0b11#2 ++ cc.code ++ 0b010#3, lo8 a, hi8 a] := by
  cases cc <;> rfl

theorem wf_jcc (cc : Cond) (a : Word) : (Fam.jcc a cc).wf = true := by cases cc <;> rfl

theorem exec_jcc (cc : Cond) (a : Word) (s : State) : exec (Fam.jcc a cc) s = jumpIf cc a s := by cases cc <;> rfl

/-- Settles O31: the eight conditional jumps are `jumpIf` of their condition; the rest is what `exec` and `cond` say. -/
theorem jumps : Obligations.Jumps := by
  refine ⟨fun a => ⟨decodesTo_encode (i := .jmp a) rfl, fun s => rfl⟩, fun cc a => ⟨?_, fun s => ⟨fun hc => ?_, fun hc => ?_⟩⟩,
    fun s => ⟨rfl, rfl, rfl, rfl, rfl, rfl, rfl, rfl⟩, decodesTo_encode (i := .pchl) rfl, fun s => rfl⟩
  · exact encode_jcc cc a ▸ decodesTo_encode (wf_jcc cc a)
  · rw [exec_jcc, jumpIf, hc]; rfl
  · rw [exec_jcc, jumpIf, hc]; rfl

end Sys2Proof.Machine
end

section
/-! SUPPORT. What an instruction writes in the 8-bit registers, said once for every instruction (40_data_moves.md to
45_stack_io_control.md). -/

namespace Sys2Proof.Machine

/-! ## Frames of the 8-bit registers -/

/-- The 8-bit registers that are halves of a cell (10_state.md R11). -/
def halves : Reg16 → List Reg8
  | .af => [.a]
  | .bc => [.b, .c]
  | .de => [.d, .e]
  | .hl => [.h, .l]
  | .sp => []
  | .pc => []

/-- The 8-bit register that is an operand's place (30_encoding.md R86). -/
def operandWritten : R8Sel → List Reg8
  | .reg r => [r]
  | .m => []

/-- The 8-bit register an ALU operation writes: `CMP` gives flags only (42_alu.md R144 to R151). -/
def accWritten : AluOp → List Reg8
  | .add | .adc | .sub | .sbb | .ana | .xra | .ora => [.a]
  | .cmp => []

/-- A write of a cell is seen through its halves only. -/
theorem State.get8_set16_of_not_half (s : State) {x : Reg16} {y : Reg8} (v : Word) (h : y ∉ halves x) :
    (s.set16 x v).get8 y = s.get8 y := by
  cases x
  case sp => exact s.get8_set16_sp v y
  case pc => exact s.get8_set16_pc v y
  case af => rw [State.get8_set16_af]; cases y <;> simp [halves] at h ⊢
  case bc => rw [State.get8_set16_bc]; cases y <;> simp [halves] at h ⊢
  case de => rw [State.get8_set16_de]; cases y <;> simp [halves] at h ⊢
  case hl => rw [State.get8_set16_hl]; cases y <;> simp [halves] at h ⊢

section
variable {ds : List Reg8} {s t u : State}

theorem keeps8.trans (h : keeps8 ds s t) (k : keeps8 ds t u) : keeps8 ds s u :=
  fun r hr => (k r hr).trans (h r hr)

/-- A change of the cards alone keeps every register. -/
theorem keeps8.of_slots (h : t = { s with slots := t.slots }) : keeps8 ds s t := fun _ _ => by rw [h]; rfl

/-- `SP`, `pc` and the cards hold no 8-bit register. -/
theorem keeps8.of_sp_pc (h : t = { s with regs := { s.regs with sp := t.regs.sp, pc := t.regs.pc }, slots := t.slots }) :
    keeps8 ds s t := fun r _ => by rw [h]; cases r <;> rfl

theorem keeps8.set8 (s : State) {x : Reg8} (hx : x ∈ ds) (v : Byte) : keeps8 ds s (s.set8 x v) :=
  fun _ hr => s.get8_set8_ne v fun e => hr (e ▸ hx)

theorem keeps8.set16 (s : State) {x : Reg16} (hx : halves x ⊆ ds) (v : Word) : keeps8 ds s (s.set16 x v) :=
  fun _ hr => s.get8_set16_of_not_half v fun hm => hr (hx hm)

theorem keeps8.setFlag (s : State) (x : Flag) (b : Bool) : keeps8 ds s (s.setFlag x b) := fun r _ => s.get8_setFlag x b r

theorem keeps8.setZsp (s : State) (v : Byte) : keeps8 ds s (s.setZsp v) := fun r _ => s.get8_setZsp v r

/-! ## Shared operations of the families -/

theorem readR8_keeps8 {x : R8Sel} {v : Byte} (h : readR8 x s = .ok (v, t)) : keeps8 ds s t := .of_slots (readR8_ok h).1

theorem writeR8_keeps8 {x : R8Sel} {v : Byte} (h : writeR8 x v s = .ok ((), t)) : keeps8 (operandWritten x) s t := by
  cases x with
  | reg r => cases h; exact .set8 s (List.mem_singleton_self r) v
  | m => exact .of_slots (memWrite_ok h).1

/-- What `INR` and `DCR` share: of the registers only the operand's place is written (41_inc_dec_dad.md R130 to R133). -/
theorem count_keeps8 {x : R8Sel} {f : Byte → Byte} {ac : Byte → Bool}
    (h : ((readR8 x s).out fun v s1 =>
      (writeR8 x (f v) (s1.setFlag .ac (ac v))).out fun _ s2 => .next (s2.setZsp (f v))) = .next t) :
    keeps8 (operandWritten x) s t := by
  obtain ⟨v, s1, h1, h⟩ := Act.out_next h
  obtain ⟨_, s2, h2, h⟩ := Act.out_next h
  cases h
  exact (((readR8_keeps8 h1).trans (.setFlag s1 _ _)).trans (writeR8_keeps8 h2)).trans (.setZsp s2 _)

theorem increment_keeps8 {x : R8Sel} (h : increment x s = .next t) : keeps8 (operandWritten x) s t := count_keeps8 h

theorem decrement_keeps8 {x : R8Sel} (h : decrement x s = .next t) : keeps8 (operandWritten x) s t := count_keeps8 h

/-- An action that leaves registers alone and gives a byte that is then loaded into `x`. -/
theorem load_keeps8 {r : Act Byte} {x : Reg8} (hr : ∀ {v s1}, r = .ok (v, s1) → s1 = { s with slots := s1.slots })
    (h : r.out (fun v s1 => .next (s1.set8 x v)) = .next t) : keeps8 [x] s t := by
  obtain ⟨v, s1, h1, h⟩ := Act.out_next h
  cases h
  exact (keeps8.of_slots (hr h1)).trans (.set8 s1 (List.mem_singleton_self x) v)

theorem aluApply_keeps8 (op : AluOp) (imm : Bool) (v : Byte) (s : State) :
    keeps8 (accWritten op) s (aluApply op imm v s) := by
  intro r hr
  cases op
  case cmp =>
    cases r
    case a => exact aluApply_cmp_acc imm v s
    all_goals exact aluApply_get8 .cmp imm v s (by decide)
  all_goals exact aluApply_get8 _ imm v s fun e => hr (List.mem_singleton.mpr e)

theorem aluOperand_keeps8 {op : AluOp} {x : R8Sel} (h : aluOperand op x s = .next t) : keeps8 (accWritten op) s t := by
  obtain ⟨v, s1, h1, h⟩ := Act.out_next h
  cases h
  exact (readR8_keeps8 h1).trans (aluApply_keeps8 op false v s1)

theorem aluImmediate_keeps8 {op : AluOp} {d8 : Byte} (h : aluImmediate op d8 s = .next t) :
    keeps8 (accWritten op) s t := by
  cases h; exact aluApply_keeps8 op true d8 s

theorem addToHl_keeps8 (v : Word) (s : State) : keeps8 [.h, .l] s (addToHl v s) :=
  (keeps8.setFlag s _ _).trans (.set16 _ (by decide) _)

theorem aluDaa_keeps8 (s : State) : keeps8 [.a] s (aluDaa s) :=
  (((keeps8.setFlag s _ _).trans (.set8 _ (List.mem_singleton_self .a) _)).trans (.setFlag _ _ _)).trans (.setZsp _ _)

/-- A rotate: `A`, then `C` (43_rotate_daa_misc.md R170 to R173). -/
theorem rotate_keeps8 (s : State) (v : Byte) (b : Bool) : keeps8 [.a] s ((s.setAcc v).setFlag .c b) :=
  (keeps8.set8 s (List.mem_singleton_self .a) v).trans (.setFlag _ _ b)

theorem jumpIf_keeps8 {cc : Cond} {a16 : Word} (h : jumpIf cc a16 s = .next t) : keeps8 ds s t :=
  .of_sp_pc (by obtain ⟨e, _⟩ := jumpIf_ok h; rw [e])

theorem callTo_keeps8 {target : Word} (h : callTo target s = .next t) : keeps8 ds s t :=
  .of_sp_pc (by obtain ⟨e, _⟩ := callTo_ok h; rw [e])

theorem returnFromCall_keeps8 (h : returnFromCall s = .ok ((), t)) : keeps8 ds s t :=
  .of_sp_pc (by obtain ⟨e, _⟩ := returnFromCall_ok h; rw [e])

theorem pushPair_keeps8 {x : StackPair} (h : pushPair x s = .next t) : keeps8 ds s t :=
  .of_sp_pc (by obtain ⟨e, _⟩ := pushPair_ok h; rw [e])

theorem popPair_keeps8 {x : StackPair} (h : popPair x s = .next t) : keeps8 (halves (stackCell x)) s t := by
  obtain ⟨v, s1, h1, h⟩ := Act.out_next h
  cases h
  have hpop : keeps8 (halves (stackCell x)) s s1 := .of_sp_pc (by obtain ⟨e, _⟩ := pop16_ok h1; rw [e])
  exact hpop.trans (.set16 s1 (List.Subset.refl _) v)

theorem exchangeTop_keeps8 (h : exchangeTop s = .next t) : keeps8 [.h, .l] s t := by
  obtain ⟨v, s1, h1, h⟩ := Act.out_next h
  obtain ⟨_, s2, h2, h⟩ := Act.out_next h
  cases h
  exact ((keeps8.of_slots (memRead2_ok h1).1).trans (.of_slots (memWrite2_ok h2).1)).trans
    (.set16 s2 (by decide) v)

end

/-! ## Every instruction -/

/-- Settles O42, by the families: each instruction is bus accesses, which keep the registers, and writes of its own
destination. -/
theorem registersFrame : Obligations.RegistersFrame := by
  intro i s t h
  cases i
  case undefinedOpcode => cases h
  case nop | hlt | ei | di => cases h; exact fun _ _ => rfl
  case lxiB | lxiD | lxiH | lxiSp | inxB | inxD | inxH | inxSp | dcxB | dcxD | dcxH | dcxSp | sphl | jmp | pchl =>
    cases h
    refine .set16 s ?_ _
    exact List.Subset.refl _
  case xchg => cases h; exact (keeps8.set16 s (by decide) _).trans (.set16 _ (by decide) _)
  case dadB | dadD | dadH | dadSp => cases h; exact addToHl_keeps8 _ s
  case rlc | rrc | ral | rar => cases h; exact rotate_keeps8 s _ _
  case stc | cmc => cases h; exact .setFlag s _ _
  case daa => cases h; exact aluDaa_keeps8 s
  case staxB | staxD | sta => exact .of_slots (memWrite_ok (Act.done_next h)).1
  case shld => exact .of_slots (memWrite2_ok (Act.done_next h)).1
  case outPort => exact .of_slots (ioWrite_ok (Act.done_next h)).1
  case ldaxB | ldaxD | lda => exact load_keeps8 (fun e => (memRead_ok e).1) h
  case inPort => exact load_keeps8 (fun e => (ioRead_ok e).1) h
  case movBM | movCM | movDM | movEM | movHM | movLM | movAM => exact load_keeps8 (fun e => (readR8_ok e).1) h
  case lhld =>
    obtain ⟨v, s1, h1, h⟩ := Act.out_next h
    cases h
    exact (keeps8.of_slots (memRead2_ok h1).1).trans (.set16 s1 (x := .hl) (List.Subset.refl _) v)
  case inrB | inrC | inrD | inrE | inrH | inrL | inrA => exact increment_keeps8 (x := .reg _) h
  case dcrB | dcrC | dcrD | dcrE | dcrH | dcrL | dcrA => exact decrement_keeps8 (x := .reg _) h
  case inrM => exact increment_keeps8 h
  case dcrM => exact decrement_keeps8 h
  case movMB | movMC | movMD | movME | movMH | movML | movMA | mviM => exact writeR8_keeps8 (x := .m) (Act.done_next h)
  case adi | aci | sui | sbi | ani | xri | ori | cpi => exact aluImmediate_keeps8 h
  case addM | adcM | subM | sbbM | anaM | xraM | oraM | cmpM => exact aluOperand_keeps8 h
  case addB | addC | addD | addE | addH | addL | addA | adcB | adcC | adcD | adcE | adcH | adcL | adcA | subB | subC | subD
      | subE | subH | subL | subA | sbbB | sbbC | sbbD | sbbE | sbbH | sbbL | sbbA | anaB | anaC | anaD | anaE | anaH | anaL
      | anaA | xraB | xraC | xraD | xraE | xraH | xraL | xraA | oraB | oraC | oraD | oraE | oraH | oraL | oraA | cmpB | cmpC
      | cmpD | cmpE | cmpH | cmpL | cmpA =>
    exact aluOperand_keeps8 (x := .reg _) h
  case jnz | jz | jnc | jc | jpo | jpe | jp | jm => exact jumpIf_keeps8 h
  case rst0 | rst1 | rst2 | rst3 | rst4 | rst5 | rst6 | rst7 | call => exact callTo_keeps8 h
  case cnz | cz | cnc | cc | cpo | cpe | cp | cm => exact .of_sp_pc (callIf_ok h).1
  case ret => exact returnFromCall_keeps8 (Act.done_next h)
  case rnz | rz | rnc | rc | rpo | rpe | rp | rm => exact .of_sp_pc (returnIf_ok h).1
  case pushB | pushD | pushH | pushPsw => exact pushPair_keeps8 h
  case popB | popD | popH | popPsw => exact popPair_keeps8 h
  case xthl => exact exchangeTop_keeps8 h
  all_goals cases h
  all_goals exact .set8 s (List.mem_singleton_self _) _

end Sys2Proof.Machine
end

section
/-! SUPPORT. The data moves (40_data_moves.md R110 to R123). -/

namespace Sys2Proof.Machine

/-! ## Encodings (30_encoding.md R85, R86, R90) -/

/-- The bytes an instruction is encoded by decode to it, whatever follows them. -/
theorem decodesTo_of_encode {i : Instr} {bs : List Byte} (hwf : i.wf = true) (h : encode i = bs) : decodesTo bs i :=
  h ▸ decodesTo_encode hwf

theorem movRR_decodes (dst src : Reg8) : decodesTo [0b01#2 ++ dst.code ++ src.code] (Fam.movRR dst src) := by
  cases dst <;> cases src <;> exact decodesTo_of_encode rfl rfl

theorem movRM_decodes (dst : Reg8) : decodesTo [0b01#2 ++ dst.code ++ 0b110#3] (Fam.movRM dst) := by
  cases dst <;> exact decodesTo_of_encode rfl rfl

theorem movMR_decodes (src : Reg8) : decodesTo [0b01110#5 ++ src.code] (Fam.movMR src) := by
  cases src <;> exact decodesTo_of_encode rfl rfl

theorem mvi_decodes (d8 : Byte) (r : Reg8) : decodesTo [0b00#2 ++ r.code ++ 0b110#3, d8] (Fam.mvi d8 (.reg r)) := by
  cases r <;> exact decodesTo_of_encode rfl rfl

theorem lxi_decodes (d16 : Word) (rp : RegPair) :
    decodesTo [0b00#2 ++ rp.code ++ 0b0001#4, lo8 d16, hi8 d16] (Fam.lxi d16 rp) := by
  cases rp <;> exact decodesTo_of_encode rfl rfl

theorem ldax_decodes (p : IndexPair) : decodesTo [0b000#3 ++ p.code ++ 0b1010#4] (Fam.ldax p) := by
  cases p <;> exact decodesTo_of_encode rfl rfl

theorem stax_decodes (p : IndexPair) : decodesTo [0b000#3 ++ p.code ++ 0b0010#4] (Fam.stax p) := by
  cases p <;> exact decodesTo_of_encode rfl rfl

/-! ## The operation each family is -/

theorem exec_movRR (dst src : Reg8) (s : State) : exec (Fam.movRR dst src) s = moveRR dst src s := by
  cases dst <;> cases src <;> rfl

theorem exec_movRM (dst : Reg8) (s : State) : exec (Fam.movRM dst) s = loadRM dst s := by cases dst <;> rfl

theorem exec_movMR (src : Reg8) (s : State) : exec (Fam.movMR src) s = storeMR src s := by cases src <;> rfl

theorem exec_mvi (d8 : Byte) (x : R8Sel) (s : State) : exec (Fam.mvi d8 x) s = moveImm x d8 s := by
  cases x with
  | reg r => cases r <;> rfl
  | m => rfl

theorem exec_lxi (d16 : Word) (rp : RegPair) (s : State) :
    exec (Fam.lxi d16 rp) s = .next (s.set16 (regPairCell rp) d16) := by cases rp <;> rfl

theorem exec_ldax (p : IndexPair) (s : State) :
    exec (Fam.ldax p) s = (memRead (s.get16 (indexCell p)) s).out fun v s1 => .next (s1.set8 .a v) := by
  cases p <;> rfl

theorem exec_stax (p : IndexPair) (s : State) :
    exec (Fam.stax p) s = (memWrite (s.get16 (indexCell p)) (s.get8 .a) s).done := by cases p <;> rfl

/-! ## Moves between registers (R110, R113, R115) -/

/-- Writing a register with what it holds changes nothing (10_state.md R11). -/
theorem State.set8_get8_self (s : State) (r : Reg8) : s.set8 r (s.get8 r) = s := by
  cases r <;> simp only [State.set8, State.get8, Regs.set8, Regs.get8, pair_hi8_lo8]

/-- Settles O12: `MOV r1,r2` is one register write, of the register's own byte where the two are the same. -/
theorem moveRegister : Obligations.MoveRegister := by
  refine fun dst src => ⟨movRR_decodes dst src, exec_movRR dst src, ?_⟩
  rintro rfl s
  rw [exec_movRR, moveRR, State.set8_get8_self]

/-- Settles O16: `LXI` is one write of the cell its pair names. -/
theorem loadPairImmediate : Obligations.LoadPairImmediate := fun rp d16 => ⟨lxi_decodes d16 rp, exec_lxi d16 rp⟩

/-! ## Moves through the bus (20_memory.md R56) -/

/-- An instruction that is one read of the memory space into `r` completes where no endpoint fails. -/
theorem load_completes {i : Instr} {a : Word} {r : Reg8} {s : State}
    (hexec : exec i s = (memRead a s).out fun v s1 => .next (s1.set8 r v)) (hh : s.healthy) :
    ∃ v s1, memRead a s = .ok (v, s1) ∧ onlyCards s s1 ∧ exec i s = .next (s1.set8 r v) := by
  obtain ⟨v, s1, hread, hcards, _⟩ := busRead_healthy a false hh
  exact ⟨v, s1, hread, hcards, by rw [hexec, memRead, hread, Act.out_of_ok]⟩

/-- An instruction that is one write of the memory space completes where no endpoint fails. -/
theorem store_completes {i : Instr} {a : Word} {v : Byte} {s : State} (hexec : exec i s = (memWrite a v s).done)
    (hh : s.healthy) : ∃ t, memWrite a v s = .ok ((), t) ∧ onlyCards s t ∧ exec i s = .next t := by
  obtain ⟨t, hwrite, hcards, _⟩ := busWrite_healthy a v false hh
  exact ⟨t, hwrite, hcards, by rw [hexec, memWrite, hwrite, Act.done_of_ok]⟩

/-- Settles O13: the address is the `HL` of the state before the read, whatever register the byte goes to. -/
theorem loadFromM : Obligations.LoadFromM := fun dst =>
  ⟨movRM_decodes dst, fun s hh => load_completes (exec_movRM dst s) hh⟩

/-- Settles O14: `MOV M,r` is one write at `HL`. -/
theorem storeToM : Obligations.StoreToM := fun src =>
  ⟨movMR_decodes src, fun s hh => store_completes (exec_movMR src s) hh⟩

/-- Settles O15: `MVI` is one write of `R8[ddd]`, a register or the byte at `HL`. -/
theorem moveImmediate : Obligations.MoveImmediate := fun d8 =>
  ⟨fun r => ⟨mvi_decodes d8 r, exec_mvi d8 (.reg r)⟩, decodesTo_encode (i := .mviM d8) rfl,
    fun s hh => store_completes (exec_mvi d8 .m s) hh⟩

/-- Loading `L` and then `H` is loading the pair (10_state.md R11). -/
theorem State.set8_l_set8_h (s : State) (l h : Byte) : (s.set8 .l l).set8 .h h = s.set16 .hl (pair h l) := by
  simp only [State.set8, State.set16, Regs.set8, Regs.set16, lo8_pair]

/-- Where no endpoint fails `LHLD` reads `L` from `a` and then `H` from `a + 1` (R120). -/
theorem lhld_completes (a : Word) {s : State} (hh : s.healthy) :
    ∃ l s1 h s2, memRead a s = .ok (l, s1) ∧ memRead (a + 1) s1 = .ok (h, s2) ∧ onlyCards s s2 ∧
      exec (.lhld a) s = .next ((s2.set8 .l l).set8 .h h) := by
  obtain ⟨l, s1, hlo, hcards1, hh1⟩ := busRead_healthy a false hh
  obtain ⟨h, s2, hhi, hcards2, _⟩ := busRead_healthy (a + 1) false hh1
  have hread : memRead2 a s = .ok (pair h l, s2) := by simp only [memRead2, memRead, hlo, hhi, Act.andThen_of_ok]
  refine ⟨l, s1, h, s2, hlo, hhi, by rw [onlyCards, hcards2, hcards1], ?_⟩
  rw [exec, execLhld, hread, Act.out_of_ok, State.set8_l_set8_h]

/-- Where no endpoint fails `SHLD` writes `L` to `a` and then `H` to `a + 1` (R121). -/
theorem shld_completes (a : Word) {s : State} (hh : s.healthy) :
    ∃ s1 t, memWrite a (s.get8 .l) s = .ok ((), s1) ∧ memWrite (a + 1) (s.get8 .h) s1 = .ok ((), t) ∧ onlyCards s t ∧
      exec (.shld a) s = .next t := by
  obtain ⟨s1, hlo, hcards1, hh1⟩ := busWrite_healthy a (s.get8 .l) false hh
  obtain ⟨t, hhi, hcards2, _⟩ := busWrite_healthy (a + 1) (s.get8 .h) false hh1
  have hwrite : memWrite2 a (s.get16 .hl) s = .ok ((), t) :=
    calc memWrite2 a (s.get16 .hl) s
        = Act.andThen (memWrite a (s.get8 .l) s) fun _ s1 => memWrite (a + 1) (s.get8 .h) s1 := rfl
      _ = .ok ((), t) := by rw [memWrite, hlo, Act.andThen_of_ok, memWrite, hhi]
  refine ⟨s1, t, hlo, hhi, by rw [onlyCards, hcards2, hcards1], ?_⟩
  rw [exec, execShld, hwrite, Act.done_of_ok]

/-- Settles O17: `LDA` and `LDAX` are one read, `LHLD` is two. -/
theorem loadDirectAndIndexed : Obligations.LoadDirectAndIndexed :=
  ⟨fun a => ⟨decodesTo_encode (i := .lda a) rfl, fun _ hh => load_completes rfl hh⟩,
    fun p => ⟨ldax_decodes p, fun s hh => load_completes (exec_ldax p s) hh⟩,
    fun a => ⟨decodesTo_encode (i := .lhld a) rfl, fun _ hh => lhld_completes a hh⟩⟩

/-- Settles O18: `STA` and `STAX` are one write, `SHLD` is two. -/
theorem storeDirectAndIndexed : Obligations.StoreDirectAndIndexed :=
  ⟨fun a => ⟨decodesTo_encode (i := .sta a) rfl, fun _ hh => store_completes rfl hh⟩,
    fun p => ⟨stax_decodes p, fun s hh => store_completes (exec_stax p s) hh⟩,
    fun a => ⟨decodesTo_encode (i := .shld a) rfl, fun _ hh => shld_completes a hh⟩⟩

/-! ## `XCHG` and `SPHL` (R122, R123) -/

/-- Settles O19: `XCHG` writes `HL` and `DE` and reads both before; what it changes is said by its frame. -/
theorem exchangeAndSphl : Obligations.ExchangeAndSphl := by
  refine ⟨decodesTo_encode (i := .xchg) rfl, decodesTo_encode (i := .sphl) rfl, fun s => ⟨?_, rfl⟩⟩
  have hexec : exec .xchg s = .next ((s.set16 .hl (s.get16 .de)).set16 .de (s.get16 .hl)) := rfl
  exact ⟨_, hexec, rfl, rfl, registersFrame .xchg s _ hexec, rfl, ⟨rfl, rfl⟩, rfl, rfl⟩

end Sys2Proof.Machine
end

section
/-! SUPPORT. Increment, decrement and 16-bit add (41_inc_dec_dad.md R130 to R136). -/

namespace Sys2Proof.Machine

/-! ## Encodings (30_encoding.md R85, R86, R90) -/

theorem inr_decodes (x : R8Sel) : decodesTo [0b00#2 ++ x.code ++ 0b100#3] (Fam.inr x) := by
  cases x with
  | reg r => cases r <;> exact decodesTo_of_encode rfl rfl
  | m => exact decodesTo_of_encode rfl rfl

theorem dcr_decodes (x : R8Sel) : decodesTo [0b00#2 ++ x.code ++ 0b101#3] (Fam.dcr x) := by
  cases x with
  | reg r => cases r <;> exact decodesTo_of_encode rfl rfl
  | m => exact decodesTo_of_encode rfl rfl

theorem inx_decodes (rp : RegPair) : decodesTo [0b00#2 ++ rp.code ++ 0b0011#4] (Fam.inx rp) := by
  cases rp <;> exact decodesTo_of_encode rfl rfl

theorem dcx_decodes (rp : RegPair) : decodesTo [0b00#2 ++ rp.code ++ 0b1011#4] (Fam.dcx rp) := by
  cases rp <;> exact decodesTo_of_encode rfl rfl

theorem dad_decodes (rp : RegPair) : decodesTo [0b00#2 ++ rp.code ++ 0b1001#4] (Fam.dad rp) := by
  cases rp <;> exact decodesTo_of_encode rfl rfl

/-! ## The operation each family is -/

/-- What `INR` and `DCR` share: the operand `v` is read, `AC` becomes `ac v`, `f v` is written, and `Z`, `S`, `P` are those of
`f v`. -/
def countOperand (f : Byte → Byte) (ac : Byte → Bool) (x : R8Sel) (s : State) : Out :=
  (readR8 x s).out fun v s1 =>
  (writeR8 x (f v) (s1.setFlag .ac (ac v))).out fun _ s2 => .next (s2.setZsp (f v))

theorem lowNibble_eq_mod (v : Byte) : lowNibble v = v.toNat % 16 := by
  rw [lowNibble, BitVec.extractLsb'_toNat, Nat.shiftRight_zero]

theorem acIncrement_eq : acIncrement = fun v => decide (v.toNat % 16 = 15) := by
  funext v
  rw [acIncrement, lowNibble_eq_mod, Bool.beq_eq_decide_eq]

theorem acDecrement_eq : acDecrement = fun v => decide (v.toNat % 16 = 0) := by
  funext v
  rw [acDecrement, lowNibble_eq_mod, Bool.beq_eq_decide_eq]

theorem exec_inr (x : R8Sel) (s : State) :
    exec (Fam.inr x) s = countOperand (· + 1) (fun v => decide (v.toNat % 16 = 15)) x s := by
  rw [← acIncrement_eq]
  cases x with
  | reg r => cases r <;> rfl
  | m => rfl

theorem exec_dcr (x : R8Sel) (s : State) :
    exec (Fam.dcr x) s = countOperand (· - 1) (fun v => decide (v.toNat % 16 = 0)) x s := by
  rw [← acDecrement_eq]
  cases x with
  | reg r => cases r <;> rfl
  | m => rfl

theorem exec_inx (rp : RegPair) (s : State) :
    exec (Fam.inx rp) s = .next (s.set16 (regPairCell rp) (s.get16 (regPairCell rp) + 1)) := by cases rp <;> rfl

theorem exec_dcx (rp : RegPair) (s : State) :
    exec (Fam.dcx rp) s = .next (s.set16 (regPairCell rp) (s.get16 (regPairCell rp) - 1)) := by cases rp <;> rfl

theorem exec_dad (rp : RegPair) (s : State) :
    exec (Fam.dad rp) s = .next (addToHl (s.get16 (regPairCell rp)) s) := by cases rp <;> rfl

/-! ## Counting one byte (R130 to R133) -/

/-- A bus write does not depend on the flags and leaves them alone (20_memory.md R49). -/
theorem busWrite_setFlag_ok {a : Word} {v : Byte} {io : Bool} {s t : State} (h : busWrite a v io s = .ok ((), t))
    (x : Flag) (b : Bool) : busWrite a v io (s.setFlag x b) = .ok ((), t.setFlag x b) := by
  unfold busWrite busWriteWith at h ⊢
  rw [State.setFlag_slots]
  split at h <;> cases h
  rfl

/-- `AC`, then Z, S and P of `v`: what stands in `F` between the two is all that matters. -/
theorem countedFlags_setZsp {s u : State} (v : Byte) {b : Bool} (h : u.getF = (s.setFlag .ac b).getF) :
    countedFlags v b s (u.setZsp v) := by
  have hflag (x : Flag) : u.flag x = (s.setFlag .ac b).flag x := congrArg (·.getLsbD x.bit) h
  refine ⟨zspOf_setZsp u v, ?_, ?_, ?_⟩
  · rw [State.flag_ac_setZsp, hflag, State.flag_setFlag_same]
  · rw [State.flag_c_setZsp, hflag, State.flag_setFlag_ne s b (by decide)]
  · rw [State.constBits_setZsp, h, State.constBits_setFlag]

section
variable {f : Byte → Byte} {ac : Byte → Bool} {s t : State}

theorem countOperand_keepsSpPc {x : R8Sel} (h : countOperand f ac x s = .next t) : keepsSpPc s t :=
  have frame : Framed [.z, .s, .p, .ac] false false s t := count_framed h
  ⟨frame.sp rfl, frame.pc rfl⟩

/-- An instruction that counts a register completes in every state; only the register and flags change. -/
theorem count_reg_completes {i : Instr} {r : Reg8} (hexec : exec i s = countOperand f ac (.reg r) s) :
    ∃ t, exec i s = .next t ∧ t.get8 r = f (s.get8 r) ∧ countedFlags (f (s.get8 r)) (ac (s.get8 r)) s t ∧
      keeps8 [r] s t ∧ keepsSpPc s t ∧ onlyRegs s t := by
  have hrun : countOperand f ac (.reg r) s =
    .next (((s.setFlag .ac (ac (s.get8 r))).set8 r (f (s.get8 r))).setZsp (f (s.get8 r))) := rfl
  refine ⟨_, hexec.trans hrun, ?_, countedFlags_setZsp _ (State.getF_set8 _ _ _), count_keeps8 hrun,
    countOperand_keepsSpPc hrun, rfl⟩
  rw [State.get8_setZsp, State.get8_set8_same]

/-- Where no endpoint fails, an instruction that counts `M` is one read and then one write at `HL`. `AC` is set before the
write, which does not see it. -/
theorem count_m_completes {i : Instr} (hexec : exec i s = countOperand f ac .m s) (hh : s.healthy) :
    ∃ v s1 s2 t, memRead (s.get16 .hl) s = .ok (v, s1) ∧ memWrite (s.get16 .hl) (f v) s1 = .ok ((), s2) ∧
      exec i s = .next t ∧ t.slots = s2.slots ∧ countedFlags (f v) (ac v) s t ∧ keeps8 [] s t ∧ keepsSpPc s t ∧
      onlyRegsAndCards s t := by
  obtain ⟨v, s1, hread, hcards1, hh1⟩ := busRead_healthy (s.get16 .hl) false hh
  obtain ⟨s2, hwrite, hcards2, _⟩ := busWrite_healthy (s.get16 .hl) (f v) false hh1
  have haddr : (s1.setFlag .ac (ac v)).mAddr = s.get16 .hl := by rw [hcards1]; rfl
  have hrun : countOperand f ac .m s = .next ((s2.setFlag .ac (ac v)).setZsp (f v)) := by
    rw [countOperand, readR8, State.mAddr, memRead, hread, Act.out_of_ok, writeR8, haddr, memWrite,
      busWrite_setFlag_ok hwrite, Act.out_of_ok]
  have hF : (s2.setFlag .ac (ac v)).getF = (s.setFlag .ac (ac v)).getF := by rw [hcards2, hcards1]; rfl
  have frame : Framed [.z, .s, .p, .ac] false false s _ := count_framed hrun
  exact ⟨v, s1, s2, _, hread, hwrite, hexec.trans hrun, rfl, countedFlags_setZsp _ hF, count_keeps8 hrun,
    countOperand_keepsSpPc hrun, frame.outside⟩

end

/-! ## Pairs (R134 to R136) -/

/-- Of the flags `DAD` writes `C`, whichever way the addition went. -/
theorem addToHl_flag_c (v : Word) (s : State) :
    (addToHl v s).flag .c = decide (0xFFFF < (s.get16 .hl).toNat + v.toNat) := by
  rw [addToHl, State.flag_set16 _ _ (by decide), State.flag_setFlag_same]

theorem addToHl_keepsFlags (v : Word) (s : State) : keepsFlags [.c] s (addToHl v s) := by
  have frame : Framed [.c] false false s (addToHl v s) := addToHl_framed v s
  refine ⟨frame.flags, ?_⟩
  rw [addToHl, State.getF_set16_hl, State.constBits_setFlag]

end Sys2Proof.Machine

namespace Sys2Proof

open Machine

/-! ## The statements, outside `Machine`, where `increment` and `decrement` are operations -/

/-- Settles O20: `INR` counts its operand up, and the low nibble carries out exactly when it is 15. -/
theorem increment : Obligations.Increment :=
  ⟨fun r => ⟨inr_decodes (.reg r), fun s => count_reg_completes (exec_inr (.reg r) s)⟩, inr_decodes .m,
    fun s hh => count_m_completes (exec_inr .m s) hh⟩

/-- Settles O21: `DCR` counts its operand down, and the low nibble borrows exactly when it is 0. -/
theorem decrement : Obligations.Decrement :=
  ⟨fun r => ⟨dcr_decodes (.reg r), fun s => count_reg_completes (exec_dcr (.reg r) s)⟩, dcr_decodes .m,
    fun s hh => count_m_completes (exec_dcr .m s) hh⟩

/-- Settles O22: `INX` and `DCX` are one write of the cell their pair names. -/
theorem incrementDecrementPair : Obligations.IncrementDecrementPair := fun rp =>
  ⟨inx_decodes rp, dcx_decodes rp, fun s => ⟨exec_inx rp s, exec_dcx rp s⟩⟩

/-- Settles O23: `DAD` writes `C` and then `HL`, and both come from the sum. -/
theorem doubleAdd : Obligations.DoubleAdd := fun rp =>
  ⟨dad_decodes rp, fun s => ⟨_, exec_dad rp s, rfl, addToHl_flag_c _ s, addToHl_keepsFlags _ s, addToHl_keeps8 _ s,
    ⟨rfl, rfl⟩, rfl⟩⟩

end Sys2Proof
end

section
/-! SUPPORT. The ALU group (42_alu.md R140 to R159). -/

namespace Sys2Proof.Machine

/-! ## Encodings (30_encoding.md R86, R87) -/

theorem alu_decodes (op : AluOp) (x : R8Sel) : decodesTo [0b10#2 ++ op.code ++ x.code] (Fam.alu op x) := by
  cases x with
  | reg r => cases op <;> cases r <;> exact decodesTo_of_encode rfl rfl
  | m => cases op <;> exact decodesTo_of_encode rfl rfl

theorem aluImm_decodes (op : AluOp) (d8 : Byte) : decodesTo [0b11#2 ++ op.code ++ 0b110#3, d8] (Fam.aluImm d8 op) := by
  cases op <;> exact decodesTo_of_encode rfl rfl

/-! ## The operation each family is -/

theorem exec_alu (op : AluOp) (x : R8Sel) (s : State) : exec (Fam.alu op x) s = aluOperand op x s := by
  cases x with
  | reg r => cases op <;> cases r <;> rfl
  | m => cases op <;> rfl

theorem exec_alu_reg (op : AluOp) (r : Reg8) (s : State) :
    exec (Fam.alu op (.reg r)) s = .next (aluApply op false (s.get8 r) s) := exec_alu op (.reg r) s

theorem exec_aluImm (op : AluOp) (d8 : Byte) (s : State) :
    exec (Fam.aluImm d8 op) s = .next (aluApply op true d8 s) := by cases op <;> rfl

/-- Where no endpoint fails the byte at `HL` is read, which changes cards at most, and is the operand of every operation. -/
theorem exec_alu_m {s : State} (hh : s.healthy) :
    ∃ v l, memRead (s.get16 .hl) s = .ok (v, { s with slots := l }) ∧
      ∀ op, exec (Fam.alu op .m) s = .next (aluApply op false v { s with slots := l }) := by
  obtain ⟨v, s1, hread, hcards, _⟩ := busRead_healthy (s.get16 .hl) false hh
  rw [hcards] at hread
  refine ⟨v, s1.slots, hread, fun op => ?_⟩
  rw [exec_alu, aluOperand, readR8, State.mAddr, memRead, hread, Act.out_of_ok]

/-! ## The frame of the cores: `A` and flags -/

section
variable {s t u : State}

theorem onlyAccAndFlags.trans (h : onlyAccAndFlags s t) (k : onlyAccAndFlags t u) : onlyAccAndFlags s u := by
  obtain ⟨h8, ⟨hsp, hpc⟩, hconst, hout⟩ := h
  obtain ⟨k8, ⟨ksp, kpc⟩, kconst, kout⟩ := k
  refine ⟨h8.trans k8, ⟨ksp.trans hsp, kpc.trans hpc⟩, kconst.trans hconst, ?_⟩
  rw [onlyRegs, kout, hout]

theorem onlyAccAndFlags.setFlag (s : State) (x : Flag) (b : Bool) : onlyAccAndFlags s (s.setFlag x b) :=
  ⟨.setFlag s x b, ⟨rfl, rfl⟩, s.constBits_setFlag x b, rfl⟩

theorem onlyAccAndFlags.setZsp (s : State) (v : Byte) : onlyAccAndFlags s (s.setZsp v) :=
  ⟨.setZsp s v, ⟨rfl, rfl⟩, s.constBits_setZsp v, rfl⟩

theorem onlyAccAndFlags.setAcc (s : State) (v : Byte) : onlyAccAndFlags s (s.setAcc v) :=
  ⟨.set8 s (List.mem_singleton_self .a) v, ⟨rfl, rfl⟩, congrArg (· &&& 0x2A) (s.getF_setAcc v), rfl⟩

end

/-! ## The cores (R141 to R143) -/

/-- Z, S and P depend on nothing but `F`. -/
theorem zspOf.setAcc {s : State} {r : Byte} (h : zspOf r s) (v : Byte) : zspOf r (s.setAcc v) := by
  simpa only [zspOf, State.flag_setAcc] using h

/-- What the add core and the logic cores end with: `C`, `AC`, then `A` and its Z, S, P. -/
def State.setResult (s : State) (c ac : Bool) (r : Byte) : State :=
  (((s.setFlag .c c).setFlag .ac ac).setAcc r).setZsp r

theorem State.setResult_effect (s : State) (c ac : Bool) (r : Byte) :
    (s.setResult c ac r).acc = r ∧ (s.setResult c ac r).flag .c = c ∧ (s.setResult c ac r).flag .ac = ac ∧
      zspOf r (s.setResult c ac r) ∧ onlyAccAndFlags s (s.setResult c ac r) := by
  refine ⟨?_, ?_, ?_, zspOf_setZsp _ r,
    (((onlyAccAndFlags.setFlag s _ _).trans (.setFlag _ _ _)).trans (.setAcc _ _)).trans (.setZsp _ _)⟩
  · rw [setResult, acc_setZsp, acc_setAcc]
  · rw [setResult, flag_c_setZsp, flag_setAcc, flag_setFlag_ne _ _ (by decide), flag_setFlag_same]
  · rw [setResult, flag_ac_setZsp, flag_setAcc, flag_setFlag_same]

theorem aluAdd_added (v : Byte) (cin : Bool) (s : State) : added v cin.toNat s (aluAdd v cin s) := by
  obtain ⟨hacc, hc, hac, hzsp, hframe⟩ := s.setResult_effect (decide (0xFF < s.acc.toNat + v.toNat + cin.toNat))
    (decide (0xF < lowNibble s.acc + lowNibble v + cin.toNat)) (BitVec.ofNat 8 (s.acc.toNat + v.toNat + cin.toNat))
  refine ⟨hacc.trans ?_, hc, hac.trans ?_, hacc.symm ▸ hzsp, hframe⟩
  · rw [BitVec.ofNat_add, BitVec.ofNat_add, BitVec.ofNat_toNat, BitVec.ofNat_toNat, BitVec.setWidth_eq, BitVec.setWidth_eq]
  · rw [lowNibble_eq_mod, lowNibble_eq_mod]

/-- A compare is the subtract core without its result. -/
theorem aluSub_compared (v : Byte) (bin : Bool) (s : State) : subtracted v bin.toNat false s (aluSub v bin false s) := by
  refine ⟨?_, ?_, ?_, zspOf_setZsp _ _,
    ((onlyAccAndFlags.setFlag s _ _).trans (.setFlag _ _ _)).trans (.setZsp _ _)⟩
  · simp only [aluSub, Bool.false_eq_true, if_false, State.acc_setZsp, State.acc_setFlag]
  · simp [aluSub, State.flag_setFlag]
  · simp [aluSub, lowNibble_eq_mod]

/-- To keep the result is to write it to `A` after the flags, which do not see it (R142). -/
theorem aluSub_subtracted (v : Byte) (bin keep : Bool) (s : State) :
    subtracted v bin.toNat keep s (aluSub v bin keep s) := by
  cases keep with
  | false => exact aluSub_compared v bin s
  | true =>
    obtain ⟨-, hc, hac, hzsp, hframe⟩ := aluSub_compared v bin s
    exact ⟨State.acc_setAcc _ _, (State.flag_setAcc _ _ _).trans hc, (State.flag_setAcc _ _ _).trans hac, hzsp.setAcc _,
      hframe.trans (.setAcc _ _)⟩

theorem setResult_logicResult (s : State) (ac : Bool) (r : Byte) : logicResult r ac s (s.setResult false ac r) :=
  s.setResult_effect false ac r

/-- Bit 3 of a byte, as the mask of R143 has it. -/
theorem getLsbD_three_eq_decide (v : Byte) : v.getLsbD 3 = decide (v &&& 0x08 ≠ 0) := by
  have hmask : v &&& 0x08 = if v.getLsbD 3 then 0x08 else 0 := BitVec.and_twoPow v 3
  rw [hmask]
  cases v.getLsbD 3 <;> rfl

/-- The register form and `M` form of the `and` core. -/
theorem aluAnd_logicResult (v : Byte) (s : State) :
    logicResult (s.acc &&& v) (decide (((s.acc ||| v) &&& 0x08) ≠ 0)) s (aluAnd v false s) := by
  rw [← getLsbD_three_eq_decide]
  exact setResult_logicResult s _ _

theorem aluAnd_imm_logicResult (v : Byte) (s : State) : logicResult (s.acc &&& v) false s (aluAnd v true s) :=
  setResult_logicResult s false _

theorem aluXor_logicResult (v : Byte) (s : State) : logicResult (s.acc ^^^ v) false s (aluXor v s) :=
  setResult_logicResult s false _

theorem aluOr_logicResult (v : Byte) (s : State) : logicResult (s.acc ||| v) false s (aluOr v s) :=
  setResult_logicResult s false _

/-! ## The groups, each over its core -/

/-- Settles O24: every form is the add core on its operand, with carry-in 0 or `C`. -/
theorem addGroup : Obligations.AddGroup := by
  refine ⟨fun r => ⟨alu_decodes .add (.reg r), alu_decodes .adc (.reg r), fun s => ?_⟩,
    ⟨alu_decodes .add .m, alu_decodes .adc .m, fun s hh => ?_⟩,
    fun d8 => ⟨aluImm_decodes .add d8, aluImm_decodes .adc d8, fun s => ?_⟩⟩
  · exact ⟨_, _, exec_alu_reg .add r s, aluAdd_added _ false s, exec_alu_reg .adc r s, aluAdd_added _ _ s⟩
  · obtain ⟨v, l, hread, hexec⟩ := exec_alu_m hh
    exact ⟨v, _, _, _, hread, rfl, hexec .add, aluAdd_added v false _, hexec .adc, aluAdd_added v _ _⟩
  · exact ⟨_, _, exec_aluImm .add d8 s, aluAdd_added d8 false s, exec_aluImm .adc d8 s, aluAdd_added d8 _ s⟩

/-- Settles O25: every form is the subtract core on its operand, with borrow-in 0 or `C`, and a compare drops the result. -/
theorem subtractGroup : Obligations.SubtractGroup := by
  refine ⟨fun r => ⟨alu_decodes .sub (.reg r), alu_decodes .sbb (.reg r), alu_decodes .cmp (.reg r), fun s => ?_⟩,
    ⟨alu_decodes .sub .m, alu_decodes .sbb .m, alu_decodes .cmp .m, fun s hh => ?_⟩,
    fun d8 => ⟨aluImm_decodes .sub d8, aluImm_decodes .sbb d8, aluImm_decodes .cmp d8, fun s => ?_⟩⟩
  · exact ⟨_, _, _, exec_alu_reg .sub r s, aluSub_subtracted _ false true s,
      exec_alu_reg .sbb r s, aluSub_subtracted _ _ true s, exec_alu_reg .cmp r s, aluSub_subtracted _ false false s⟩
  · obtain ⟨v, l, hread, hexec⟩ := exec_alu_m hh
    exact ⟨v, _, _, _, _, hread, rfl, hexec .sub, aluSub_subtracted v false true _,
      hexec .sbb, aluSub_subtracted v _ true _, hexec .cmp, aluSub_subtracted v false false _⟩
  · exact ⟨_, _, _, exec_aluImm .sub d8 s, aluSub_subtracted d8 false true s,
      exec_aluImm .sbb d8 s, aluSub_subtracted d8 _ true s, exec_aluImm .cmp d8 s, aluSub_subtracted d8 false false s⟩

/-- Settles O26: every form is the logic core of its name on its operand; only `ANA` and `ANI` differ in a flag. -/
theorem logicGroup : Obligations.LogicGroup := by
  refine ⟨fun r => ⟨alu_decodes .ana (.reg r), alu_decodes .xra (.reg r), alu_decodes .ora (.reg r), fun s => ?_⟩,
    ⟨alu_decodes .ana .m, alu_decodes .xra .m, alu_decodes .ora .m, fun s hh => ?_⟩,
    fun d8 => ⟨aluImm_decodes .ana d8, aluImm_decodes .xra d8, aluImm_decodes .ora d8, fun s => ?_⟩⟩
  · exact ⟨_, _, _, exec_alu_reg .ana r s, aluAnd_logicResult _ s, exec_alu_reg .xra r s, aluXor_logicResult _ s,
      exec_alu_reg .ora r s, aluOr_logicResult _ s⟩
  · obtain ⟨v, l, hread, hexec⟩ := exec_alu_m hh
    exact ⟨v, _, _, _, _, hread, rfl, hexec .ana, aluAnd_logicResult v _, hexec .xra, aluXor_logicResult v _,
      hexec .ora, aluOr_logicResult v _⟩
  · exact ⟨_, _, _, exec_aluImm .ana d8 s, aluAnd_imm_logicResult d8 s, exec_aluImm .xra d8 s, aluXor_logicResult d8 s,
      exec_aluImm .ora d8 s, aluOr_logicResult d8 s⟩

end Sys2Proof.Machine
end

section
/-! SUPPORT. Decimal addition: the add core and then `DAA` (42_alu.md R141, 43_rotate_daa_misc.md R174). -/

namespace Sys2Proof.Machine

/-! ## `DAA` -/

theorem highNibble_eq_div (v : Byte) : highNibble v = v.toNat / 16 := by
  rw [highNibble, BitVec.extractLsb'_toNat, Nat.shiftRight_eq_div_pow]
  omega

theorem aluDaa_acc (s : State) : (aluDaa s).acc = s.acc + daaCorrection s.acc (s.flag .ac) (s.flag .c) := by
  rw [aluDaa, State.acc_setZsp, State.acc_setFlag, State.acc_setAcc]

theorem aluDaa_flag_c (s : State) : (aluDaa s).flag .c = daaCarry s.acc (s.flag .c) := by
  rw [aluDaa, State.flag_c_setZsp, State.flag_setFlag_same]

/-- Whether `DAA` corrects the low digit (R174). -/
def daaLow (a : Byte) (ac : Bool) : Bool := ac || decide (9 < a.toNat % 16)

theorem daaCarry_eq_div_mod (a : Byte) (cy : Bool) :
    daaCarry a cy = (cy || decide (9 < a.toNat / 16) || (decide (9 ≤ a.toNat / 16) && decide (9 < a.toNat % 16))) := by
  rw [daaCarry, highNibble_eq_div, lowNibble_eq_mod]

/-- The high digit is corrected exactly when `DAA` leaves a carry. -/
theorem toNat_daaCorrection (a : Byte) (ac cy : Bool) :
    (daaCorrection a ac cy).toNat = 6 * (daaLow a ac).toNat + 96 * (daaCarry a cy).toNat := by
  have hcorr : daaCorrection a ac cy = (if daaLow a ac then 0x06 else 0x00) + (if daaCarry a cy then 0x60 else 0x00) := by
    rw [daaLow, ← lowNibble_eq_mod]; rfl
  rw [hcorr]
  cases daaLow a ac <;> cases daaCarry a cy <;> rfl

/-! ## Sums of decimal digits -/

/-- The byte `a` and the two carries are what adding two bytes of decimal digits leaves: `x` is the sum of the low digits and
the carry-in, `y` the sum of the high digits. -/
structure DigitSums (x y : Nat) (a : Byte) (ac cy : Bool) : Prop where
  low_le : x ≤ 19
  high_le : y ≤ 18
  byte : a.toNat = (16 * y + x) % 256
  ac_eq : ac = decide (15 < x)
  cy_eq : cy = decide (255 < 16 * y + x)

section
variable {x y : Nat} {a : Byte} {ac cy : Bool} (h : DigitSums x y a ac cy)
include h

/-- The low digit is corrected exactly when the low digits carry out in decimal. -/
theorem DigitSums.daaLow_eq : daaLow a ac = decide (9 < x) := by
  obtain ⟨hx, -, ha, rfl, -⟩ := h
  rw [daaLow, ← Bool.decide_or, decide_eq_decide]
  omega

/-- `DAA` leaves a carry exactly when the decimal sum has more than two digits. -/
theorem DigitSums.daaCarry_eq : daaCarry a cy = decide (99 < 10 * y + x) := by
  obtain ⟨hx, hy, ha, -, rfl⟩ := h
  rw [daaCarry_eq_div_mod, ← Bool.decide_and, ← Bool.decide_or, ← Bool.decide_or, decide_eq_decide]
  omega

/-- The corrected byte holds the last two decimal digits of the sum: with 6 for the decimal carry out of the low digit and 96
for the one out of the high digit, the binary sum is their byte modulo 256. -/
theorem DigitSums.toNat_corrected :
    (a + daaCorrection a ac cy).toNat = 16 * ((10 * y + x) % 100 / 10) + (10 * y + x) % 10 := by
  have hx : x ≤ 19 := h.low_le
  have hy : y ≤ 18 := h.high_le
  have hunits : (10 * y + x) % 10 + 10 * (decide (9 < x)).toNat = x := by
    by_cases hlow : 9 < x <;>
      simp only [hlow, decide_true, decide_false, Bool.toNat_true, Bool.toNat_false] <;> omega
  have htens : (10 * y + x) % 100 / 10 + 10 * (decide (99 < 10 * y + x)).toNat = y + (decide (9 < x)).toNat := by
    by_cases hlow : 9 < x <;> by_cases hhigh : 99 < 10 * y + x <;>
      simp only [hlow, hhigh, decide_true, decide_false, Bool.toNat_true, Bool.toNat_false] <;> omega
  rw [BitVec.toNat_add, toNat_daaCorrection, h.daaLow_eq, h.daaCarry_eq, h.byte]
  omega

end

/-- A byte made of the last two digits of `n`. -/
theorem isBcd_bcdValue_of_digits {v : Byte} {n : Nat} (h : v.toNat = 16 * (n % 100 / 10) + n % 10) :
    isBcd v ∧ bcdValue v = n % 100 := by
  rw [isBcd, bcdValue]
  omega

/-! ## `ADI` or `ACI`, then `DAA` -/

theorem added_digitSums {v : Byte} {cin : Bool} {s t : State} (hs : isBcd s.acc) (hv : isBcd v)
    (h : added v cin.toNat s t) :
    DigitSums (s.acc.toNat % 16 + v.toNat % 16 + cin.toNat) (s.acc.toNat / 16 + v.toNat / 16) t.acc (t.flag .ac)
      (t.flag .c) := by
  obtain ⟨hacc, hc, hac, -, -⟩ := h
  obtain ⟨hsHigh, hsLow⟩ := hs
  obtain ⟨hvHigh, hvLow⟩ := hv
  have hcin : cin.toNat ≤ 1 := cin.toNat_le
  refine ⟨by omega, by omega, ?_, hac, hc.trans (decide_eq_decide.mpr (by omega))⟩
  rw [hacc, BitVec.toNat_add, BitVec.toNat_add, BitVec.toNat_ofNat]
  omega

/-- The add core and then `DAA` add the numbers that decimal bytes stand for. -/
theorem aluDaa_of_added {v : Byte} {cin : Bool} {s t : State} (hs : isBcd s.acc) (hv : isBcd v)
    (h : added v cin.toNat s t) :
    isBcd (aluDaa t).acc ∧ bcdValue (aluDaa t).acc = (bcdValue s.acc + bcdValue v + cin.toNat) % 100 ∧
      (aluDaa t).flag .c = decide (99 < bcdValue s.acc + bcdValue v + cin.toNat) := by
  have sums := added_digitSums hs hv h
  have hsum : 10 * (s.acc.toNat / 16 + v.toNat / 16) + (s.acc.toNat % 16 + v.toNat % 16 + cin.toNat) =
      bcdValue s.acc + bcdValue v + cin.toNat := by
    rw [bcdValue, bcdValue]; omega
  have hdigits := sums.toNat_corrected
  rw [hsum, ← aluDaa_acc] at hdigits
  obtain ⟨hbcd, hvalue⟩ := isBcd_bcdValue_of_digits hdigits
  exact ⟨hbcd, hvalue, by rw [aluDaa_flag_c, sums.daaCarry_eq, hsum]⟩

/-- Settles O29: `ADI` and `ACI` are the add core with carry-in 0 and `C`, and `DAA` turns its sum into the decimal one. -/
theorem decimalAddition : Obligations.DecimalAddition := fun s d8 hs hd =>
  ⟨⟨_, _, rfl, rfl, aluDaa_of_added (cin := false) hs hd (aluAdd_added d8 false s)⟩,
    ⟨_, _, rfl, rfl, aluDaa_of_added hs hd (aluAdd_added d8 (s.flag .c) s)⟩⟩

end Sys2Proof.Machine
end

section
/-! SUPPORT. Rotates, `DAA`, and the instructions without an operand (43_rotate_daa_misc.md R170 to R178). -/

namespace Sys2Proof.Machine

/-! ## A rotate as arithmetic (R170 to R173) -/

theorem getLsbD_seven_eq_decide (v : Byte) : v.getLsbD 7 = decide (128 ≤ v.toNat) := BitVec.msb_eq_decide v

theorem getLsbD_zero_eq_decide (v : Byte) : v.getLsbD 0 = decide (v.toNat % 2 = 1) := Nat.testBit_zero v.toNat

/-! The bit shifted in falls on one that is 0, so the `or` of a rotate is a sum. -/

theorem toNat_rotl (a : Byte) (b : Bool) : (rotl a b).toNat = (2 * a.toNat + b.toNat) % 256 := by
  have hb : b.toNat < 2 ^ 1 := Nat.lt_succ_of_le b.toNat_le
  have ha : (a <<< 1).toNat = 2 ^ 1 * (a.toNat % 128) := by
    rw [BitVec.toNat_shiftLeft, Nat.shiftLeft_eq]; omega
  have hbit : (BitVec.ofNat 8 b.toNat).toNat = b.toNat := by cases b <;> rfl
  rw [rotl, BitVec.toNat_or, ha, hbit, ← Nat.two_pow_add_eq_or_of_lt hb]
  omega

theorem toNat_rotr (a : Byte) (b : Bool) : (rotr a b).toNat = a.toNat / 2 + 128 * b.toNat := by
  have ha : a.toNat / 2 < 2 ^ 7 := Nat.div_lt_of_lt_mul a.isLt
  have hbit : (BitVec.ofNat 8 b.toNat <<< 7).toNat = 2 ^ 7 * b.toNat := by cases b <;> rfl
  rw [rotr, BitVec.or_comm, BitVec.toNat_or, hbit, BitVec.toNat_ushiftRight, Nat.shiftRight_eq_div_pow, Nat.pow_one,
    ← Nat.two_pow_add_eq_or_of_lt ha, Nat.add_comm]

/-- `RLC` shifts in the bit it shifts out. -/
theorem toNat_rotl_self (a : Byte) : (rotl a (a.getLsbD 7)).toNat = (2 * a.toNat + a.toNat / 128) % 256 := by
  have hbit : (a.getLsbD 7).toNat = a.toNat / 128 % 2 := Nat.toNat_testBit a.toNat 7
  rw [toNat_rotl, hbit, Nat.mod_eq_of_lt (Nat.div_lt_of_lt_mul a.isLt)]

/-- `RRC` shifts in the bit it shifts out. -/
theorem toNat_rotr_self (a : Byte) : (rotr a (a.getLsbD 0)).toNat = a.toNat / 2 + 128 * (a.toNat % 2) := by
  have hbit : (a.getLsbD 0).toNat = a.toNat / 1 % 2 := Nat.toNat_testBit a.toNat 0
  rw [toNat_rotr, hbit, Nat.div_one]

/-- Every rotate is a write of `A` and then of `C`. -/
theorem rotated_setAcc_setFlag (s : State) (v : Byte) (b : Bool) :
    rotated v.toNat b s ((s.setAcc v).setFlag .c b) := by
  have frame : Framed [.c] false false s ((s.setAcc v).setFlag .c b) := rotate_framed s v b
  refine ⟨?_, State.flag_setFlag_same _ _ _, rotate_keeps8 s v b, ⟨frame.flags, ?_⟩, ⟨frame.sp rfl, frame.pc rfl⟩, rfl⟩
  · rw [State.acc_setFlag, State.acc_setAcc]
  · rw [State.constBits_setFlag, State.getF_setAcc]

/-- Settles O27: each rotate writes `A` and `C`, with the byte and the bit of its rule. -/
theorem rotates : Obligations.Rotates := by
  refine ⟨decodesTo_of_encode rfl rfl, decodesTo_of_encode rfl rfl, decodesTo_of_encode rfl rfl, decodesTo_of_encode rfl rfl,
    fun s => ⟨⟨_, rfl, ?_⟩, ⟨_, rfl, ?_⟩, ⟨_, rfl, ?_⟩, ⟨_, rfl, ?_⟩⟩⟩
  · rw [← toNat_rotl_self, ← getLsbD_seven_eq_decide]
    exact rotated_setAcc_setFlag s _ _
  · rw [← toNat_rotr_self, ← getLsbD_zero_eq_decide]
    exact rotated_setAcc_setFlag s _ _
  · rw [← toNat_rotl, ← getLsbD_seven_eq_decide]
    exact rotated_setAcc_setFlag s _ _
  · rw [← toNat_rotr, ← getLsbD_zero_eq_decide]
    exact rotated_setAcc_setFlag s _ _

/-! ## `DAA` (R174) -/

theorem aluDaa_flag_ac (s : State) :
    (aluDaa s).flag .ac = decide (0xF < lowNibble s.acc + lowNibble (daaCorrection s.acc (s.flag .ac) (s.flag .c))) := by
  rw [aluDaa, State.flag_ac_setZsp, State.flag_setFlag_ne _ _ (by decide), State.flag_setAcc, State.flag_setFlag_same]

theorem aluDaa_zspOf (s : State) : zspOf (aluDaa s).acc (aluDaa s) := by
  rw [aluDaa_acc]
  exact zspOf_setZsp _ _

theorem aluDaa_onlyAccAndFlags (s : State) : onlyAccAndFlags s (aluDaa s) :=
  (((onlyAccAndFlags.setFlag s _ _).trans (.setAcc _ _)).trans (.setFlag _ _ _)).trans (.setZsp _ _)

/-- The correction as R174 adds it up: the high digit is corrected exactly when `DAA` leaves a carry. -/
theorem toNat_daaCorrection_eq_ite (a : Byte) (ac cy : Bool) :
    (daaCorrection a ac cy).toNat = (if daaLow a ac then 0x06 else 0) + (if daaCarry a cy then 0x60 else 0) := by
  rw [toNat_daaCorrection]
  cases daaLow a ac <;> cases daaCarry a cy <;> rfl

/-- Settles O28: `DAA` is its correction added to `A`, and the two conditions of R174 are `daaLow` and `daaCarry`. -/
theorem decimalAdjust : Obligations.DecimalAdjust := by
  refine ⟨decodesTo_of_encode rfl rfl, fun s => ⟨aluDaa s, rfl, ?_⟩⟩
  dsimp only
  rw [← daaLow, ← daaCarry_eq_div_mod, ← toNat_daaCorrection_eq_ite]
  refine ⟨?_, ?_, aluDaa_flag_c s, aluDaa_zspOf s, aluDaa_onlyAccAndFlags s⟩
  · rw [aluDaa_acc, BitVec.ofNat_add, BitVec.ofNat_toNat, BitVec.ofNat_toNat, BitVec.setWidth_eq, BitVec.setWidth_eq]
  · rw [aluDaa_flag_ac, lowNibble_eq_mod, lowNibble_eq_mod]

/-! ## `CMA`, `CMC`, `STC`, `NOP` (R175 to R178) -/

/-- Settles O30: each is at most one write, of `A` or of `C`. -/
theorem complementCarryNop : Obligations.ComplementCarryNop :=
  ⟨decodesTo_of_encode rfl rfl, decodesTo_of_encode rfl rfl, decodesTo_of_encode rfl rfl, decodesTo_of_encode rfl rfl,
    fun _ => ⟨rfl, rfl, rfl, rfl⟩⟩

end Sys2Proof.Machine
end

section
/-! SUPPORT. Calls and returns (44_control_flow.md R187 to R191, R193). -/

namespace Sys2Proof.Machine

/-! ## Encodings (30_encoding.md R88 to R90) -/

theorem ccc_decodes (cc : Cond) (a : Word) : decodesTo [0b11#2 ++ cc.code ++ 0b100#3, lo8 a, hi8 a] (Fam.ccc a cc) := by
  cases cc <;> exact decodesTo_of_encode rfl rfl

theorem rcc_decodes (cc : Cond) : decodesTo [0b11#2 ++ cc.code ++ 0b000#3] (Fam.rcc cc) := by
  cases cc <;> exact decodesTo_of_encode rfl rfl

theorem rst_decodes (n : BitVec 3) : decodesTo [0b11#2 ++ n ++ 0b111#3] (Fam.rst n) := by
  rcases code3_cases n with rfl | rfl | rfl | rfl | rfl | rfl | rfl | rfl <;> exact decodesTo_of_encode rfl rfl

/-! ## The operation each family is -/

theorem exec_ccc (cc : Cond) (a : Word) (s : State) : exec (Fam.ccc a cc) s = callIf cc a s := by cases cc <;> rfl

theorem exec_rcc (cc : Cond) (s : State) : exec (Fam.rcc cc) s = returnIf cc s := by cases cc <;> rfl

theorem restartVector_eq_ofNat (n : BitVec 3) : restartVector n = BitVec.ofNat 16 (8 * n.toNat) := by
  rcases code3_cases n with rfl | rfl | rfl | rfl | rfl | rfl | rfl | rfl <;> rfl

theorem exec_rst (n : BitVec 3) (s : State) : exec (Fam.rst n) s = callTo (BitVec.ofNat 16 (8 * n.toNat)) s := by
  rw [← restartVector_eq_ofNat]
  rcases code3_cases n with rfl | rfl | rfl | rfl | rfl | rfl | rfl | rfl <;> rfl

/-! ## Calls (R187, R188, R191) -/

theorem callTo_of_push16 {target : Word} {s t : State} (h : push16 (s.get16 .pc) s = .ok ((), t)) :
    callTo target s = .next (t.set16 .pc target) := by rw [callTo, h, Act.out_of_ok]

/-- A call completes where no endpoint fails: `pc` is pushed, then loaded. -/
theorem callTo_pushes (target : Word) {s : State} (hh : s.healthy) :
    ∃ t, push16 (s.get16 .pc) s = .ok ((), t) ∧ callTo target s = .next (t.set16 .pc target) := by
  obtain ⟨t, hpush, _⟩ := push16_healthy (s.get16 .pc) hh
  exact ⟨t, hpush, callTo_of_push16 hpush⟩

/-- Settles O32: `CALL`, a taken `Ccc` and `RST` are one call each, to the address of the instruction or its vector. -/
theorem calls : Obligations.Calls := by
  refine ⟨fun a => ⟨decodesTo_encode (i := .call a) rfl, fun s hh => callTo_pushes a hh⟩,
    fun cc a => ⟨ccc_decodes cc a, fun s => ⟨fun hc hh => ?_, fun hc => ?_⟩⟩,
    fun n => ⟨rst_decodes n, fun s hh => ?_⟩⟩
  · rw [exec_ccc, callIf, if_pos hc]; exact callTo_pushes a hh
  · rw [exec_ccc, callIf, hc]; rfl
  · rw [exec_rst]; exact callTo_pushes _ hh

/-! ## Returns (R189, R190) -/

theorem returnFromCall_of_pop16 {s t : State} {v : Word} (h : pop16 s = .ok (v, t)) :
    returnFromCall s = .ok ((), t.set16 .pc v) := by rw [returnFromCall, h, Act.andThen_of_ok]

/-- A return completes where no endpoint fails: `pc` is popped. -/
theorem returnFromCall_pops {s : State} (hh : s.healthy) :
    ∃ v t, pop16 s = .ok (v, t) ∧ (returnFromCall s).done = .next (t.set16 .pc v) := by
  obtain ⟨v, t, hpop, _⟩ := pop16_healthy hh
  exact ⟨v, t, hpop, by rw [returnFromCall_of_pop16 hpop, Act.done_of_ok]⟩

/-- Settles O33: `RET` and a taken `Rcc` are one return each. -/
theorem returns : Obligations.Returns := by
  refine ⟨decodesTo_encode (i := .ret) rfl, fun s hh => returnFromCall_pops hh,
    fun cc => ⟨rcc_decodes cc, fun s => ⟨fun hc hh => ?_, fun hc => ?_⟩⟩⟩
  · rw [exec_rcc, returnIf, if_pos hc]; exact returnFromCall_pops hh
  · rw [exec_rcc, returnIf, hc]; rfl

/-! ## `RET` after `CALL` (R193) -/

/-- Settles O34: `CALL` stores `pc` in the two bytes of RAM, and `RET` reads it there and takes `SP` back. -/
theorem callThenReturn : Obligations.CallThenReturn := by
  intro s a hh h2 h1
  obtain ⟨t, hpush, hregs, hlo, hhi, _⟩ := push16_ram (s.get16 .pc) hh h2 h1
  have hsp : (t.set16 .pc a).get16 .sp = s.get16 .sp - 2 := congrArg Regs.sp hregs
  have hsucc : s.get16 .sp - 2 + 1 = s.get16 .sp - 1 := by bv_omega
  have hback : s.get16 .sp - 2 + 2 = s.get16 .sp := by bv_omega
  have hpop : pop16 (t.set16 .pc a) = .ok (s.get16 .pc, (t.set16 .pc a).set16 .sp (s.get16 .sp)) := by
    rw [pop16_of_peek (by rw [hsp]; exact hlo) (by rw [hsp, hsucc]; exact hhi), pair_hi8_lo8, hsp, hback]
  refine ⟨t.set16 .pc a, ((t.set16 .pc a).set16 .sp (s.get16 .sp)).set16 .pc (s.get16 .pc),
    callTo_of_push16 hpush, rfl, hsp, ?_, ?_⟩
  · rw [exec, execRet, returnFromCall_of_pop16 hpop, Act.done_of_ok]
  · show ((t.regs.set16 .pc a).set16 .sp s.regs.sp).set16 .pc s.regs.pc = s.regs
    rw [hregs]; rfl

end Sys2Proof.Machine
end

section
/-! SUPPORT. Acceptance of a restart (44_control_flow.md R191, 60_exceptions.md R274, R275, R278): taking the interrupt and then
the call of `RST n`, whose writes are the two pushes, or the one. -/

namespace Sys2Proof.Machine

/-! ## Asking the cards (60_exceptions.md R270, R273) -/

theorem askCards_healthy {s : State} (hh : s.healthy) : (askCards s).healthy := by
  intro x hx
  obtain ⟨sl, hsl, e⟩ := mem_mapCards hx
  have hcard : sl.card.healthy := hh sl hsl
  rw [e]
  cases hc : sl.card with
  | data d => trivial
  | serial d => rw [hc] at hcard; exact hcard
  | other d => trivial

theorem Card.asked_peekByte (c : Card) (a : Word) : c.asked.peekByte a = c.peekByte a := by cases c <;> rfl

/-- Asking the cards changes no byte of either space. -/
theorem askCards_peek (s : State) (io : Bool) (a : Word) : (askCards s).peek io a = s.peek io a := by
  show peekSlots a io (mapCards Card.asked s.slots) = peekSlots a io s.slots
  induction s.slots with
  | nil => rfl
  | cons o rest ih =>
    cases o with
    | none => exact ih
    | some sl =>
      have hans : ({ sl with card := sl.card.asked } : Slot).answers a io = sl.answers a io :=
        Card.answers_of_config (Card.asked_config sl.card) a io
      show peekSlots a io (some { sl with card := sl.card.asked } :: mapCards Card.asked rest) = _
      rw [peekSlots_cons, peekSlots_cons, hans, Card.asked_peekByte, ih]

/-! ## Where RAM answers -/

theorem Card.answers_config (c : Card) (a : Word) (io : Bool) : c.config.answers a io = c.answers a io := by cases c <;> rfl

theorem ramSlots_config (a : Word) (io : Bool) (l : List (Option Slot)) :
    ramSlots a io (mapCards Card.config l) = ramSlots a io l := by
  induction l with
  | nil => rfl
  | cons o rest ih =>
    cases o with
    | none => exact ih
    | some sl =>
      obtain ⟨card, al⟩ := sl
      have hans : ({ card := card.config, allowConflict := al } : Slot).answers a io =
          ({ card := card, allowConflict := al } : Slot).answers a io := Card.answers_config card a io
      show ramSlots a io (some { card := card.config, allowConflict := al } :: mapCards Card.config rest) = _
      simp only [ramSlots, hans, ih]
      cases card <;> rfl

/-- Which addresses RAM answers is part of the configuration of the bus. -/
theorem ramAt_of_busConfig {s t : State} (h : busConfig t = busConfig s) (a : Word) : t.ramAt a = s.ramAt a :=
  calc t.ramAt a = ramSlots a false (busConfig t) := (ramSlots_config a false t.slots).symm
    _ = ramSlots a false (busConfig s) := by rw [h]
    _ = s.ramAt a := ramSlots_config a false s.slots

/-! ## What a push stores (45_stack_io_control.md R200) -/

theorem sub_two_sub_two (a : Word) : a - 2 - 2 = a - 4 := by bv_omega

theorem sub_two_sub_one (a : Word) : a - 2 - 1 = a - 3 := by bv_omega

/-- `t` holds the word `w` in the two bytes below `sp`, each where RAM answers there in `s`. -/
def HoldsBelow (sp w : Word) (s t : State) : Prop :=
  (s.ramAt (sp - 2) = true → t.peek false (sp - 2) = some (lo8 w)) ∧
  (s.ramAt (sp - 1) = true → t.peek false (sp - 1) = some (hi8 w))

theorem push16_holdsBelow {w : Word} {s t : State} (h : push16 w s = .ok ((), t)) : HoldsBelow (s.get16 .sp) w s t :=
  push16_stores h

theorem HoldsBelow.of_busConfig {sp w : Word} {s u t : State} (h : HoldsBelow sp w u t) (hc : busConfig u = busConfig s) :
    HoldsBelow sp w s t := by
  simpa only [HoldsBelow, ramAt_of_busConfig hc] using h

/-- A push leaves the two bytes above its own as they are. -/
theorem HoldsBelow.push16 {sp w x : Word} {s u v : State} (h : HoldsBelow sp w s u) (hpush : push16 x u = .ok ((), v))
    (hsp : u.get16 .sp = sp - 2) : HoldsBelow sp w s v := by
  obtain ⟨_, acc⟩ := push16_ok hpush
  rw [hsp] at acc
  have hkept : ∀ a, a ≠ sp - 2 - 2 → a ≠ sp - 2 - 1 → v.peek false a = u.peek false a :=
    fun a h2 h1 => acc.peek (by simpa using ⟨h2, h1⟩)
  obtain ⟨hlo, hhi⟩ := h
  exact ⟨fun hr => (hkept _ (by bv_omega) (by bv_omega)).trans (hlo hr),
    fun hr => (hkept _ (by bv_omega) (by bv_omega)).trans (hhi hr)⟩

/-! ## Taking the interrupt (R274) -/

theorem enterInterrupt_completes (inst : IrqInst) {s : State} (hh : s.healthy) : (enterInterrupt inst s).Completes := by
  refine Act.Completes.andThen ?_ fun _ t ht => ⟨(), _, rfl, ht⟩
  split
  · exact push16_completes (s := s.taken) hh _
  · exact ⟨(), s.taken, rfl, hh⟩

/-- What the push of an acceptance takes from `SP`: two bytes with `IRQ_ACCEPT_PUSHES_PC`, else nothing. -/
def State.entryPush (s : State) : Word := if s.params.irqAcceptPushesPc then 2 else 0

theorem State.entryPush_of_push {s : State} (hp : s.params.irqAcceptPushesPc = true) : s.entryPush = 2 := if_pos hp

theorem State.sub_entryPush_of_no_push {s : State} (hp : s.params.irqAcceptPushesPc = false) (a : Word) :
    a - s.entryPush = a := by
  rw [State.entryPush, hp]; exact BitVec.sub_zero a

theorem State.sub_entryPush_sub_two (s : State) (a : Word) :
    a - s.entryPush - 2 = a - (if s.params.irqAcceptPushesPc then 4 else 2) := by
  cases hp : s.params.irqAcceptPushesPc with
  | false => rw [State.sub_entryPush_of_no_push hp]; rfl
  | true => rw [State.entryPush_of_push hp]; exact sub_two_sub_two a

/-- The bytes an accepted restart pushes to: the interrupted `pc` with `IRQ_ACCEPT_PUSHES_PC`, and the return address. -/
def State.restartWrites (s : State) : List (Word × Bool) :=
  if s.params.irqAcceptPushesPc then
    [(s.get16 .sp - 2, false), (s.get16 .sp - 1, false), (s.get16 .sp - 4, false), (s.get16 .sp - 3, false)]
  else [(s.get16 .sp - 2, false), (s.get16 .sp - 1, false)]

theorem not_mem_restartWrites {s : State} {a : Word} (h1 : a ≠ s.get16 .sp - 1) (h2 : a ≠ s.get16 .sp - 2)
    (h34 : s.params.irqAcceptPushesPc = true → a ≠ s.get16 .sp - 3 ∧ a ≠ s.get16 .sp - 4) :
    (a, false) ∉ s.restartWrites := by
  unfold State.restartWrites
  split
  · next hp => simpa using ⟨h2, h1, (h34 hp).symm⟩
  · simpa using ⟨h2, h1⟩

theorem port_not_mem_restartWrites (s : State) (a : Word) : (a, true) ∉ s.restartWrites := by
  unfold State.restartWrites
  split <;> simp

/-- All that taking an interrupt changes. -/
theorem enterInterrupt_eq {inst : IrqInst} {s u : State} (h : enterInterrupt inst s = .ok ((), u)) :
    u = { s.taken with
      regs := { s.regs with sp := s.regs.sp - s.entryPush }, slots := u.slots, irqQueue := [inst.b1, inst.b2] } := by
  cases hp : s.params.irqAcceptPushesPc with
  | false =>
    obtain rfl := enterInterrupt_of_no_push hp h
    rw [State.sub_entryPush_of_no_push hp]; rfl
  | true =>
    obtain ⟨t, hpush, rfl⟩ := enterInterrupt_of_push hp h
    obtain ⟨e, _⟩ := push16_ok hpush
    rw [e, State.entryPush_of_push hp]; rfl

/-! ## A push of `pc` after it -/

section
variable {inst : IrqInst} {s u v : State} (henter : enterInterrupt inst s = .ok ((), u))
  (hpush : push16 (s.get16 .pc) u = .ok ((), v))
include henter

theorem enterInterrupt_get16_sp : u.get16 .sp = s.get16 .sp - s.entryPush := by rw [enterInterrupt_eq henter]; rfl

/-- With `IRQ_ACCEPT_PUSHES_PC` the interrupted `pc` stands below the old `SP`. -/
theorem enterInterrupt_holdsBelow (hp : s.params.irqAcceptPushesPc = true) :
    HoldsBelow (s.get16 .sp) (s.get16 .pc) s u := by
  obtain ⟨t, hfirst, rfl⟩ := enterInterrupt_of_push hp henter
  have hheld : HoldsBelow (s.get16 .sp) (s.get16 .pc) s.taken t := push16_holdsBelow hfirst
  exact hheld

include hpush

theorem enterInterrupt_push16_eq :
    v = { s.taken with
      regs := { s.regs with sp := s.regs.sp - s.entryPush - 2 }, slots := v.slots, irqQueue := [inst.b1, inst.b2] } := by
  obtain ⟨hv, _⟩ := push16_ok hpush
  rw [hv, enterInterrupt_eq henter]

/-- The pushes are all the writes of the bus. -/
theorem enterInterrupt_push16_accessed : Accessed s.restartWrites s v := by
  obtain ⟨_, _, _, _, accEnter⟩ := enterInterrupt_ok henter
  obtain ⟨_, accPush⟩ := push16_ok hpush
  have acc := accEnter.trans accPush
  rw [enterInterrupt_get16_sp henter] at acc
  cases hp : s.params.irqAcceptPushesPc with
  | false =>
    rw [State.sub_entryPush_of_no_push hp, hp] at acc
    rw [State.restartWrites, hp]; exact acc
  | true =>
    rw [State.entryPush_of_push hp, sub_two_sub_two, sub_two_sub_one, hp] at acc
    rw [State.restartWrites, hp]; exact acc

/-- `pc` stands below the old `SP`, and once more below that if the acceptance pushed it too. -/
theorem enterInterrupt_push16_holdsBelow :
    HoldsBelow (s.get16 .sp) (s.get16 .pc) s v ∧
      (s.params.irqAcceptPushesPc = true → HoldsBelow (s.get16 .sp - 2) (s.get16 .pc) s v) := by
  have hsp := enterInterrupt_get16_sp henter
  obtain ⟨_, _, _, _, acc⟩ := enterInterrupt_ok henter
  have hlast : HoldsBelow (u.get16 .sp) (s.get16 .pc) s v := (push16_holdsBelow hpush).of_busConfig acc.busConfig
  cases hp : s.params.irqAcceptPushesPc with
  | false =>
    rw [hsp, State.sub_entryPush_of_no_push hp] at hlast
    exact ⟨hlast, nofun⟩
  | true =>
    rw [State.entryPush_of_push hp] at hsp
    exact ⟨(enterInterrupt_holdsBelow henter hp).push16 hpush hsp, fun _ => hsp ▸ hlast⟩

end

/-! ## The acceptance of `RST n` (R191, R274, R278) -/

/-- Where no endpoint fails the acceptance of `RST n` takes the interrupt, pushes `pc` and goes to the vector. -/
theorem acceptInterrupt_rst (n : BitVec 3) (b1 b2 : Byte) {s : State} (hh : s.healthy) :
    ∃ u v, enterInterrupt ⟨0b11#2 ++ n ++ 0b111#3, b1, b2⟩ s = .ok ((), u) ∧ push16 (s.get16 .pc) u = .ok ((), v) ∧
      acceptInterrupt ⟨0b11#2 ++ n ++ 0b111#3, b1, b2⟩ s =
        .next { v.set16 .pc (BitVec.ofNat 16 (8 * n.toNat)) with irqQueue := [] } := by
  obtain ⟨_, u, henter, hhu⟩ := enterInterrupt_completes ⟨0b11#2 ++ n ++ 0b111#3, b1, b2⟩ hh
  have hpc : u.get16 .pc = s.get16 .pc := by rw [enterInterrupt_eq henter]; rfl
  have hqueue : { u with irqQueue := [b1, b2] } = u := by rw [enterInterrupt_eq henter]
  obtain ⟨v, hpush, hcall⟩ := callTo_pushes (BitVec.ofNat 16 (8 * n.toNat)) hhu
  refine ⟨u, v, henter, hpc ▸ hpush, acceptInterrupt_of_decode henter (rst_decodes n [b1, b2]) ?_⟩
  rw [hqueue, exec_rst, hcall]

/-- Settles O57: the step is the acceptance of `RST n` after the cards were asked, which changes neither the configuration of the
bus nor a byte of it. -/
theorem restartInterrupt : Obligations.RestartInterrupt := by
  intro s n b1 b2 hh he hr
  obtain ⟨u, v, henter, hpush, haccept⟩ := acceptInterrupt_rst n b1 b2 (askCards_healthy hh)
  have hv := enterInterrupt_push16_eq henter hpush
  have acc := enterInterrupt_push16_accessed henter hpush
  obtain ⟨hcalled, htwice⟩ := enterInterrupt_push16_holdsBelow henter hpush
  obtain ⟨hlo, hhi⟩ := hcalled.of_busConfig (askCards_busConfig s)
  refine ⟨_, (step_of_request he hr).trans haccept, rfl, ?_, acc.busConfig.trans (askCards_busConfig s), fun r _ => ?_, ?_, ?_,
    hlo, hhi, fun hp => ?_, fun a h1 h2 h34 => ?_, fun a => ?_⟩
  · rw [hv]; rfl
  · rw [hv]; cases r <;> rfl
  · rw [hv]; rfl
  · rw [hv]; exact s.sub_entryPush_sub_two _
  · have hbelow := (htwice hp).of_busConfig (askCards_busConfig s)
    rw [HoldsBelow, sub_two_sub_two, sub_two_sub_one] at hbelow
    exact hbelow
  · exact (acc.peek (not_mem_restartWrites h1 h2 h34)).trans (askCards_peek s false a)
  · exact (acc.peek (port_not_mem_restartWrites _ a)).trans (askCards_peek s true a)

end Sys2Proof.Machine
end

section
/-! SUPPORT. Stack primitives, `PUSH`, `POP` and `XTHL`, ports, interrupt enable and halt (45_stack_io_control.md R200 to
R211). -/

namespace Sys2Proof.Machine

/-! ## A fault ends a sequence (60_exceptions.md R260) -/

@[simp] theorem Act.andThen_of_error {α β : Type} (f : Fault) (k : α → State → Act β) :
    Act.andThen (.error f) k = .error f := rfl

@[simp] theorem Act.out_of_error {α : Type} (f : Fault) (k : α → State → Out) : Act.out (.error f) k = .fault f := rfl

/-! ## Two bytes as one access each (20_memory.md R56) -/

theorem memRead2_of_bytes {a : Word} {s s1 s2 : State} {lo hi : Byte} (hlo : memRead a s = .ok (lo, s1))
    (hhi : memRead (a + 1) s1 = .ok (hi, s2)) : memRead2 a s = .ok (pair hi lo, s2) := by
  rw [memRead2, hlo, Act.andThen_of_ok, hhi, Act.andThen_of_ok]

theorem memWrite2_of_bytes {a v : Word} {s s1 s2 : State} (hlo : memWrite a (lo8 v) s = .ok ((), s1))
    (hhi : memWrite (a + 1) (hi8 v) s1 = .ok ((), s2)) : memWrite2 a v s = .ok ((), s2) := by
  rw [memWrite2, hlo, Act.andThen_of_ok, hhi]

/-- Where no endpoint fails both bytes are read, and only cards change. -/
theorem memRead_both (a : Word) {s : State} (hh : s.healthy) :
    ∃ lo s1 hi s2, memRead a s = .ok (lo, s1) ∧ memRead (a + 1) s1 = .ok (hi, s2) ∧ onlyCards s s2 ∧ s2.healthy := by
  obtain ⟨lo, s1, hlo, hcards1, hh1⟩ := busRead_healthy a false hh
  obtain ⟨hi, s2, hhi, hcards2, hh2⟩ := busRead_healthy (a + 1) false hh1
  exact ⟨lo, s1, hi, s2, hlo, hhi, by rw [onlyCards, hcards2, hcards1], hh2⟩

/-- Where no endpoint fails both bytes are written, and only cards change. -/
theorem memWrite_both (a : Word) (lo hi : Byte) {s : State} (hh : s.healthy) :
    ∃ s1 s2, memWrite a lo s = .ok ((), s1) ∧ memWrite (a + 1) hi s1 = .ok ((), s2) ∧ onlyCards s s2 := by
  obtain ⟨s1, hlo, hcards1, hh1⟩ := busWrite_healthy a lo false hh
  obtain ⟨s2, hhi, hcards2, _⟩ := busWrite_healthy (a + 1) hi false hh1
  exact ⟨s1, s2, hlo, hhi, by rw [onlyCards, hcards2, hcards1]⟩

/-! ## `Push16` (R200) -/

/-- A CPU write does not depend on the register file and leaves it alone (20_memory.md R49). -/
theorem memWrite_set16_ok {a : Word} {b : Byte} {s t : State} (h : memWrite a b s = .ok ((), t)) (x : Reg16) (w : Word) :
    memWrite a b (s.set16 x w) = .ok ((), t.set16 x w) := by
  unfold memWrite busWrite busWriteWith at h ⊢
  rw [State.set16_slots]
  split at h <;> cases h
  rfl

/-- The same of a write that faults. -/
theorem memWrite_set16_error {a : Word} {b : Byte} {s u : State} (h : memWrite a b s = .error (.endpointIoError u))
    (x : Reg16) (w : Word) : memWrite a b (s.set16 x w) = .error (.endpointIoError (u.set16 x w)) := by
  unfold memWrite busWrite busWriteWith at h ⊢
  rw [State.set16_slots]
  split at h <;> cases h
  rfl

theorem sub_two_add_one (a : Word) : a - 2 + 1 = a - 1 := by bv_omega

section
variable {v : Word} {s s1 : State} (hlo : memWrite (s.get16 .sp - 2) (lo8 v) s = .ok ((), s1))
include hlo

theorem push16_of_bytes {s2 : State} (hhi : memWrite (s.get16 .sp - 1) (hi8 v) s1 = .ok ((), s2)) :
    push16 v s = .ok ((), s2.set16 .sp (s.get16 .sp - 2)) :=
  memWrite2_of_bytes (memWrite_set16_ok hlo .sp _) (sub_two_add_one _ ▸ memWrite_set16_ok hhi .sp _)

/-- The high byte's write fails: `SP` is already lowered (60_exceptions.md R265). -/
theorem push16_of_high_error {u : State}
    (hhi : memWrite (s.get16 .sp - 1) (hi8 v) s1 = .error (.endpointIoError u)) :
    push16 v s = .error (.endpointIoError (u.set16 .sp (s.get16 .sp - 2))) := by
  rw [push16, memWrite2, memWrite_set16_ok hlo, Act.andThen_of_ok, sub_two_add_one, memWrite_set16_error hhi]

end

/-- The low byte's write fails: `SP` is already lowered (60_exceptions.md R265). -/
theorem push16_of_low_error {v : Word} {s u : State}
    (hlo : memWrite (s.get16 .sp - 2) (lo8 v) s = .error (.endpointIoError u)) :
    push16 v s = .error (.endpointIoError (u.set16 .sp (s.get16 .sp - 2))) := by
  rw [push16, memWrite2, memWrite_set16_error hlo, Act.andThen_of_error]

/-! ## `Pop16` (R201) -/

/-- The reads of a pop leave the register file, so the `SP` raised is the old one. -/
theorem pop16_of_bytes {s s1 s2 : State} {lo hi : Byte} (hlo : memRead (s.get16 .sp) s = .ok (lo, s1))
    (hhi : memRead (s.get16 .sp + 1) s1 = .ok (hi, s2)) :
    pop16 s = .ok (pair hi lo, s2.set16 .sp (s.get16 .sp + 2)) := by
  have hread := memRead2_of_bytes hlo hhi
  have hsp : s2.get16 .sp = s.get16 .sp := by rw [(memRead2_ok hread).1]; rfl
  rw [pop16, hread, Act.andThen_of_ok, hsp]

theorem pop16_of_low_error {s : State} {f : Fault} (hlo : memRead (s.get16 .sp) s = .error f) : pop16 s = .error f := by
  rw [pop16, memRead2, hlo, Act.andThen_of_error, Act.andThen_of_error]

theorem pop16_of_high_error {s s1 : State} {lo : Byte} {f : Fault} (hlo : memRead (s.get16 .sp) s = .ok (lo, s1))
    (hhi : memRead (s.get16 .sp + 1) s1 = .error f) : pop16 s = .error f := by
  rw [pop16, memRead2, hlo, Act.andThen_of_ok, hhi, Act.andThen_of_error, Act.andThen_of_error]

/-- Settles O35: each primitive is its two accesses in turn, on the bus it finds, and stops at the first that fails. -/
theorem pushAndPopPrimitives : Obligations.PushAndPopPrimitives := by
  refine fun s => ⟨fun hh v => ?_, fun _ _ => push16_of_low_error, fun _ _ _ hlo hhi => push16_of_high_error hlo hhi,
    fun hh => ?_, fun _ => pop16_of_low_error, fun _ _ _ => pop16_of_high_error, fun hlo hhi => ?_⟩
  · obtain ⟨s1, s2, hlo, hhi, hcards⟩ := memWrite_both (s.get16 .sp - 2) (lo8 v) (hi8 v) hh
    rw [sub_two_add_one] at hhi
    exact ⟨s1, s2, hlo, hhi, hcards, push16_of_bytes hlo hhi⟩
  · obtain ⟨lo, s1, hi, s2, hlo, hhi, hcards, _⟩ := memRead_both (s.get16 .sp) hh
    exact ⟨lo, s1, hi, s2, hlo, hhi, hcards, pop16_of_bytes hlo hhi⟩
  · exact pop16_of_bytes (busRead_of_unmapped hlo) (busRead_of_unmapped hhi)

/-! ## `PUSH` and `POP` (R202 to R205) -/

theorem push_decodes (x : StackPair) : decodesTo [0b11#2 ++ x.code ++ 0b0101#4] (Fam.push x) := by
  cases x <;> exact decodesTo_of_encode rfl rfl

theorem pop_decodes (x : StackPair) : decodesTo [0b11#2 ++ x.code ++ 0b0001#4] (Fam.pop x) := by
  cases x <;> exact decodesTo_of_encode rfl rfl

theorem stackCell_ne_af {x : StackPair} (h : x ≠ .psw) : stackCell x ≠ .af := by
  cases x with
  | psw => exact absurd rfl h
  | bc | de | hl => exact nofun

/-- Settles O36: `PUSH` is one push of its cell, `POP` one pop into it, and only a write of `AF` passes through the mask. -/
theorem pushAndPop : Obligations.PushAndPop := by
  refine fun x => ⟨push_decodes x, pop_decodes x, fun s hh => ⟨?_, ?_⟩⟩
  · obtain ⟨t, hpush, _⟩ := push16_healthy (s.get16 (stackCell x)) hh
    exact ⟨t, hpush, by rw [exec_push, pushPair, hpush, Act.done_of_ok]⟩
  · obtain ⟨v, t, hpop, _⟩ := pop16_healthy hh
    have hF : t.getF = s.getF := by rw [(pop16_ok hpop).1]; rfl
    refine ⟨v, t, _, hpop, by rw [exec_pop, popPair, hpop, Act.out_of_ok], rfl, fun hx => ?_, ?_⟩
    · exact ⟨t.get16_set16_same v (stackCell_ne_af hx), (t.getF_set16 v (stackCell_ne_af hx)).trans hF⟩
    · rintro rfl
      exact ⟨t.get8_set16_af v .a, t.getF_set16_af v⟩

/-! ## `XTHL` (R206) -/

/-- Settles O38: the word at `SP` is read, `HL` is written there, and then `HL` is loaded with the word. -/
theorem exchangeStackTop : Obligations.ExchangeStackTop := by
  refine ⟨decodesTo_encode (i := .xthl) rfl, fun s hh => ?_⟩
  obtain ⟨l, s1, h, s2, hreadL, hreadH, hcards2, hh2⟩ := memRead_both (s.get16 .sp) hh
  obtain ⟨s3, t, hwriteL, hwriteH, hcardsT⟩ := memWrite_both (s.get16 .sp) (s.get8 .l) (s.get8 .h) hh2
  have hwrite : memWrite2 (s.get16 .sp) (s.get16 .hl) s2 = .ok ((), t) := memWrite2_of_bytes hwriteL hwriteH
  refine ⟨l, s1, h, s2, s3, t, hreadL, hreadH, hwriteL, hwriteH, by rw [onlyCards, hcardsT, hcards2], ?_⟩
  rw [exec, execXthl, exchangeTop, memRead2_of_bytes hreadL hreadH, Act.out_of_ok, hwrite, Act.out_of_ok,
    State.set8_l_set8_h]

/-! ## `IN` and `OUT` (R207, R208) -/

theorem portAddr_toNat (p : Byte) : (portAddr p).toNat = p.toNat + 256 * p.toNat := by
  rw [portAddr, pair, BitVec.toNat_append, ← Nat.shiftLeft_add_eq_or_of_lt p.isLt, Nat.shiftLeft_eq]
  omega

theorem ioRead_of_cardBus {s : State} (hb : s.params.flatArrayBus = false) (p : Byte) :
    ioRead p s = busRead (portAddr p) true s := by rw [ioRead, hb, if_neg Bool.false_ne_true]

theorem ioWrite_of_cardBus {s : State} (hb : s.params.flatArrayBus = false) (p v : Byte) :
    ioWrite p v s = busWrite (portAddr p) v true s := by rw [ioWrite, hb, if_neg Bool.false_ne_true]

theorem ioRead_of_flatArray {s : State} (hb : s.params.flatArrayBus = true) (p : Byte) :
    ioRead p s = .error (.unsupportedPortIo s) := by rw [ioRead, if_pos hb]

theorem ioWrite_of_flatArray {s : State} (hb : s.params.flatArrayBus = true) (p v : Byte) :
    ioWrite p v s = .error (.unsupportedPortIo s) := by rw [ioWrite, if_pos hb]

/-- Settles O39: `IN` is one read of the port space and `OUT` one write of it, which the flat-array variant refuses. -/
theorem portInputOutput : Obligations.PortInputOutput := by
  refine fun p => ⟨decodesTo_encode (i := .inPort p) rfl, decodesTo_encode (i := .outPort p) rfl, portAddr_toNat p,
    fun s => ⟨fun hb hh => ⟨?_, ?_⟩, fun hb => ⟨?_, ?_⟩⟩⟩
  · obtain ⟨v, s1, hread, hcards, _⟩ := busRead_healthy (portAddr p) true hh
    exact ⟨v, s1, hread, hcards, by rw [exec, execInPort, ioRead_of_cardBus hb, hread, Act.out_of_ok, State.setAcc]⟩
  · obtain ⟨t, hwrite, hcards, _⟩ := busWrite_healthy (portAddr p) (s.get8 .a) true hh
    exact ⟨t, hwrite, hcards, by rw [exec, execOutPort, ioWrite_of_cardBus hb, State.acc, hwrite, Act.done_of_ok]⟩
  · rw [exec, execInPort, ioRead_of_flatArray hb, Act.out_of_error]
  · rw [exec, execOutPort, ioWrite_of_flatArray hb, Act.done, Act.out_of_error]

/-! ## `EI`, `DI` and `HLT` (R209 to R211) -/

theorem boundaryCheck_of_request {s : State} {inst : IrqInst} (he : s.interruptsEnabled = true)
    (hr : irqSlots s.params (askCards s).slots = some inst) : boundaryCheck s = .accept inst (askCards s) := by
  simp only [boundaryCheck, he, hr, if_true]

theorem boundaryCheck_of_disabled {s : State} (he : s.interruptsEnabled = false) : boundaryCheck s = .go s := by
  rw [boundaryCheck, he, if_neg Bool.false_ne_true]

/-- A halted machine that accepts no interrupt stays as the boundary check leaves it. -/
theorem step_of_halted {s t : State} (hb : boundaryCheck s = .go t) (hh : t.halted = true) : step s = .next t := by
  simp only [step, machineStep, busRefresh_eq, hb, cpuStep, hh, if_true]

/-- Settles O40: each writes one control bit, and the boundary check and the step after it act on that bit. -/
theorem interruptEnableAndHalt : Obligations.InterruptEnableAndHalt :=
  ⟨decodesTo_encode (i := .ei) rfl, decodesTo_encode (i := .di) rfl, decodesTo_encode (i := .hlt) rfl, fun _ =>
    ⟨rfl, fun _ hr => ⟨_, boundaryCheck_of_request rfl hr⟩, rfl, boundaryCheck_of_disabled rfl, rfl,
      fun hh hb => step_of_halted hb hh⟩⟩

end Sys2Proof.Machine
end

section
/-! SUPPORT. The serial card: what an access does after a poll and an output call that fail or do not (50_acia_6850.md R221 to
R238). -/

namespace Sys2Proof.Machine

/-! ## Bits of a byte by mask and by field -/

theorem getLsbD_zero_iff (v : Byte) : v.getLsbD 0 = true ↔ v &&& 1 = 1 := by
  rw [getLsbD_zero_eq_decide, decide_eq_true_iff, ← BitVec.toNat_inj, BitVec.toNat_and]
  simp [Nat.and_one_is_mod]

theorem getLsbD_zero_false_iff (v : Byte) : v.getLsbD 0 = false ↔ v &&& 1 = 0 := by
  rw [getLsbD_zero_eq_decide, decide_eq_false_iff_not, ← BitVec.toNat_inj, BitVec.toNat_and]
  simp [Nat.and_one_is_mod]

theorem setBit_seven (v w : Byte) : setBit v 7 (w.getLsbD 7) = (v &&& 0x7F) ||| (w &&& 0x80) := by
  apply BitVec.eq_of_getLsbD_eq
  intro j hj
  rw [getLsbD_setBit _ _ _ _ (by decide), BitVec.getLsbD_or, BitVec.getLsbD_and, BitVec.getLsbD_and]
  have hmask : ∀ j < 8, (0x7F : Byte).getLsbD j = decide (j ≠ 7) ∧ (0x80 : Byte).getLsbD j = decide (j = 7) := by decide
  obtain ⟨hlow, hhigh⟩ := hmask j hj
  rw [hlow, hhigh]
  by_cases h : j = 7
  · simp [h]
  · simp [h]

/-- A byte masked to the `n` bits from bit `i` is its field there, in place. -/
theorem and_fieldMask (v : Byte) (i n : Nat) :
    v &&& ((BitVec.allOnes n).setWidth 8 <<< i) = (v.extractLsb' i n).setWidth 8 <<< i := by
  apply BitVec.eq_of_getLsbD_eq
  intro j hj
  simp only [BitVec.getLsbD_and, BitVec.getLsbD_shiftLeft, BitVec.getLsbD_setWidth, BitVec.getLsbD_allOnes,
    BitVec.getLsbD_extractLsb']
  by_cases hi : j < i
  · simp [hi]
  · have hij : i + (j - i) = j := by omega
    have hlt : j - i < 8 := by omega
    simp [hi, hj, hij, hlt, Bool.and_comm]

theorem bitVec2_cases (k : BitVec 2) : k = 0 ∨ k = 1 ∨ k = 2 ∨ k = 3 := by revert k; decide

/-! ## A serial card as a card of the bus -/

theorem Card.read_serial_ok {p : Params} {a : Word} {v : Byte} {c c1 : SerialCard} (h : c.read p a = .ok (v, c1)) :
    (Card.serial c).read p a = .ok (v, .serial c1) := by rw [Card.read, h]

theorem Card.read_serial_error {p : Params} {a : Word} {c c1 : SerialCard} (h : c.read p a = .error c1) :
    (Card.serial c).read p a = .error (.serial c1) := by rw [Card.read, h]

theorem Card.write_serial_ok {a : Word} {v : Byte} {c c1 : SerialCard} (h : c.write a v = .ok c1) (force : Bool) :
    (Card.serial c).write force a v = .ok (.serial c1) := by rw [Card.write, h]

theorem Card.write_serial_error {a : Word} {v : Byte} {c c1 : SerialCard} (h : c.write a v = .error c1) (force : Bool) :
    (Card.serial c).write force a v = .error (.serial c1) := by rw [Card.write, h]

namespace SerialCard

/-! ## The partial decode (R221) -/

theorem selectsControl_iff (c : SerialCard) (a : Word) :
    c.selectsControl a = true ↔ a.toNat % 256 = c.startAdr.toNat % 256 := by
  rw [selectsControl, decide_eq_true_iff, base_eq, lo8, BitVec.extractLsb'_toNat, Nat.shiftRight_zero]

theorem inRange_iff (c : SerialCard) (a : Word) : c.inRange a = true ↔
    a.toNat % 256 = c.startAdr.toNat % 256 ∨ a.toNat % 256 = c.startAdr.toNat % 256 + 1 := by
  rw [inRange, decide_eq_true_iff, base_eq, lo8, BitVec.extractLsb'_toNat, Nat.shiftRight_zero]

theorem answers_iff (c : SerialCard) (a : Word) (io : Bool) : (Card.serial c).answers a io = true ↔ c.isIo = io ∧
    (a.toNat % 256 = c.startAdr.toNat % 256 ∨ a.toNat % 256 = c.startAdr.toNat % 256 + 1) := by
  rw [Card.answers, Bool.and_eq_true, beq_iff_eq, and_comm]
  exact and_congr_right fun _ => inRange_iff c a

/-- A port reaches the card at its base and at the next one; up to the base `0xFE` the next port does not wrap. -/
theorem answers_portAddr_iff {c : SerialCard} (hb : c.startAdr.toNat % 256 ≤ 0xFE) (p : Byte) :
    (Card.serial c).answers (portAddr p) true = true ↔ c.isIo = true ∧ (p = lo8 c.startAdr ∨ p = lo8 c.startAdr + 1) := by
  have hlo : (lo8 c.startAdr).toNat = c.startAdr.toNat % 256 := base_eq c
  have hp : (portAddr p).toNat % 256 = p.toNat := by rw [portAddr_toNat]; omega
  have hnext : (lo8 c.startAdr + 1).toNat = c.startAdr.toNat % 256 + 1 := by
    rw [BitVec.toNat_add_of_lt (by rw [hlo]; exact Nat.lt_succ_of_le (Nat.succ_le_succ hb)), hlo]
    rfl
  rw [answers_iff, hp, ← BitVec.toNat_inj, ← BitVec.toNat_inj, hlo, hnext]

/-! ## The poll (R226) -/

theorem rxPoll_of_pollFails {c : SerialCard} (h : c.pollFails) : c.rxPoll = .error { c with rx := c.rx.tail } := by
  obtain ⟨hr, hx⟩ := h
  have hr : c.rdrf = false := (getLsbD_zero_false_iff _).2 hr
  obtain ⟨rest, hx⟩ := List.head?_eq_some_iff.1 hx
  simp [rxPoll, hr, hx]

theorem rxPoll_of_not_pollFails {c : SerialCard} (h : ¬ c.pollFails) : c.rxPoll = .ok c.afterPoll := by
  unfold rxPoll afterPoll
  by_cases hr : c.rdrf = true
  · rw [if_pos hr, if_pos ((getLsbD_zero_iff _).1 hr)]
  · rw [if_neg hr, if_neg (mt (getLsbD_zero_iff _).2 hr)]
    have hr0 : c.status &&& 1 = 0 := (getLsbD_zero_false_iff _).1 (Bool.eq_false_of_not_eq_true hr)
    split
    · next hx => rw [hx]
    · next rest hx => rw [hx]
    · next b rest hx => rw [hx]; rfl
    · next rest hx => exact absurd ⟨hr0, by rw [hx]; rfl⟩ h

/-- The poll gives a byte and its flag and uses up the script, and touches nothing else. -/
theorem afterPoll_eq (c : SerialCard) :
    c.afterPoll = { c with rx := c.afterPoll.rx, rxData := c.afterPoll.rxData, status := c.afterPoll.status } := by
  unfold afterPoll
  split
  · rfl
  · split <;> rfl

@[simp] theorem afterPoll_startAdr (c : SerialCard) : c.afterPoll.startAdr = c.startAdr := by rw [afterPoll_eq]
@[simp] theorem afterPoll_isIo (c : SerialCard) : c.afterPoll.isIo = c.isIo := by rw [afterPoll_eq]
@[simp] theorem afterPoll_control (c : SerialCard) : c.afterPoll.control = c.control := by rw [afterPoll_eq]
@[simp] theorem afterPoll_txData (c : SerialCard) : c.afterPoll.txData = c.txData := by rw [afterPoll_eq]
@[simp] theorem afterPoll_txFail (c : SerialCard) : c.afterPoll.txFail = c.txFail := by rw [afterPoll_eq]
@[simp] theorem afterPoll_log (c : SerialCard) : c.afterPoll.log = c.log := by rw [afterPoll_eq]

/-! ## The output call (R225, R238) -/

theorem emit_of_putFails {c : SerialCard} (h : c.putFails) (e : EndpointEvent) :
    c.emit e = .error { c with txFail := c.txFail.tail } := by
  obtain ⟨rest, h⟩ := List.head?_eq_some_iff.1 h
  simp [emit, h]

theorem emit_of_not_putFails {c : SerialCard} (h : ¬ c.putFails) (e : EndpointEvent) :
    c.emit e = .ok { c with txFail := c.txFail.tail, log := c.log ++ [e] } := by
  unfold emit
  split
  · next hf => rw [hf]; rfl
  · next rest hf => rw [hf]; rfl
  · next rest hf => exact absurd (by rw [putFails, hf]; rfl) h

/-! ## The byte to send (R234, R235) -/

/-- The card with a byte latched and `TDRE` down, as a data write flushes it. -/
def latched (c : SerialCard) (v : Byte) : SerialCard := { c with txData := v, status := setBit c.status 1 false }

theorem latched_tdre (c : SerialCard) (v : Byte) : (c.latched v).tdre = false :=
  getLsbD_setBit_same c.status 1 false (by decide)

theorem latched_txFlush {c : SerialCard} (h : ¬ c.putFails) (v : Byte) : (c.latched v).txFlush = .ok { c with
    txData := v, status := c.status ||| 0x02, log := c.log ++ [.put v], txFail := c.txFail.tail } := by
  rw [txFlush, if_neg (ne_true_of_eq_false (latched_tdre c v)), emit_of_not_putFails (c := c.latched v) h]
  simp only [latched, setBit_setBit _ _ _ _ (show 1 < 8 by decide)]
  rfl

theorem latched_txFlush_of_putFails {c : SerialCard} (h : c.putFails) (v : Byte) : (c.latched v).txFlush = .error { c with
    txData := v, status := c.status &&& 0xFD, txFail := c.txFail.tail } := by
  rw [txFlush, if_neg (ne_true_of_eq_false (latched_tdre c v)), emit_of_putFails (c := c.latched v) h]
  rfl

/-! ## The ports after the poll (R227, R228, R230, R235) -/

section
variable {c : SerialCard} {a : Word}

theorem read_of_pollFails (h : c.pollFails) (p : Params) (a : Word) :
    c.read p a = .error { c with rx := c.rx.tail } := by
  simp only [read, readStatus, readData, rxPoll_of_pollFails h, ite_self]

theorem write_of_pollFails (h : c.pollFails) (a : Word) (v : Byte) :
    c.write a v = .error { c with rx := c.rx.tail } := by
  simp only [write, writeControl, writeData, rxPoll_of_pollFails h, ite_self]

theorem read_status (h : ¬ c.pollFails) (ha : c.selectsControl a = true) (p : Params) :
    c.read p a = .ok (c.afterPoll.status, c.afterPoll) := by
  rw [read, if_pos ha, readStatus, rxPoll_of_not_pollFails h]

/-- Only the parameter makes a read of the byte clear `RDRF`. -/
theorem read_data (h : ¬ c.pollFails) (ha : c.selectsControl a = false) (p : Params) :
    c.read p a = .ok (c.afterPoll.rxData, if p.aciaRdrfClearOnRead
      then { c.afterPoll with status := c.afterPoll.status &&& 0xFE } else c.afterPoll) := by
  rw [read, if_neg (ne_true_of_eq_false ha), readData, rxPoll_of_not_pollFails h]
  rfl

theorem write_control (h : ¬ c.pollFails) (ha : c.selectsControl a = true) (v : Byte) :
    c.write a v = c.afterPoll.controlDecode v := by
  rw [write, if_pos ha, writeControl, rxPoll_of_not_pollFails h]

theorem write_data (h : ¬ c.pollFails) (ha : c.selectsControl a = false) (v : Byte) :
    c.write a v = (c.afterPoll.latched v).txFlush := by
  rw [write, if_neg (ne_true_of_eq_false ha), writeData, rxPoll_of_not_pollFails h]
  rfl

end

/-! ## The fields of a control write (R229, R230, R232) -/

theorem wordSelect_of_masked {v : Byte} {k : BitVec 3} (h : v &&& 0x1C = k.setWidth 8 <<< 2) :
    wordSelect (v.extractLsb' 2 3) = wordSelect k := by
  have hfield : (v.extractLsb' 2 3).setWidth 8 <<< 2 = k.setWidth 8 <<< 2 := (and_fieldMask v 2 3).symm.trans h
  have hinj : ∀ k l : BitVec 3, k.setWidth 8 <<< 2 = l.setWidth 8 <<< 2 → k = l := by decide
  rw [hinj _ _ hfield]

theorem applyClockField_eq (c : SerialCard) (v : Byte) : c.applyClockField v =
    if v &&& 0x03 = 0x03 then c.reset
    else { c with divisor := if v &&& 0x03 = 0x00 then .div1 else if v &&& 0x03 = 0x01 then .div16 else .div64 } := by
  rw [show v &&& (0x03 : Byte) = (v.extractLsb' 0 2).setWidth 8 <<< 0 from and_fieldMask v 0 2, applyClockField]
  rcases bitVec2_cases (v.extractLsb' 0 2) with h | h | h | h <;> rw [h] <;> rfl

/-- The TX control field: `RTS` by the field, and for `11` the break event besides. -/
theorem applyTxField_eq (c : SerialCard) (v : Byte) : c.applyTxField v =
    if v &&& 0x60 = 0x60 then { c with rts := 1 }.emit .sendBreak
    else .ok { c with rts := if v &&& 0x60 = 0x40 then 0 else 1 } := by
  rw [show v &&& (0x60 : Byte) = (v.extractLsb' 5 2).setWidth 8 <<< 5 from and_fieldMask v 5 2, applyTxField]
  rcases bitVec2_cases (v.extractLsb' 5 2) with h | h | h | h <;> rw [h] <;> rfl

/-- The card after the clock-divide and word-select fields of `v`. -/
def lowFields (c : SerialCard) (v : Byte) : SerialCard :=
  { c.applyClockField v with format := wordSelect (v.extractLsb' 2 3) }

section
variable (c : SerialCard) (v : Byte)

theorem lowFields_status : (c.lowFields v).status = if v &&& 0x03 = 0x03 then 0x02 else c.status := by
  rw [lowFields, applyClockField_eq]
  split <;> rfl

theorem lowFields_control : (c.lowFields v).control = if v &&& 0x03 = 0x03 then 0x95 else c.control := by
  rw [lowFields, applyClockField_eq]
  split <;> rfl

@[simp] theorem lowFields_txFail : (c.lowFields v).txFail = c.txFail := by
  rw [lowFields, applyClockField_eq]
  split <;> rfl

@[simp] theorem lowFields_log : (c.lowFields v).log = c.log := by
  rw [lowFields, applyClockField_eq]
  split <;> rfl

/-- The low fields of the polled card are what `fieldsSet` says. -/
theorem fieldsSet_lowFields : c.fieldsSet v (c.afterPoll.lowFields v) := by
  refine ⟨wordSelect_of_masked (k := 0), wordSelect_of_masked (k := 1), wordSelect_of_masked (k := 2),
    wordSelect_of_masked (k := 3), wordSelect_of_masked (k := 4), wordSelect_of_masked (k := 5),
    wordSelect_of_masked (k := 6), wordSelect_of_masked (k := 7), ?_⟩
  rw [lowFields, applyClockField_eq]
  by_cases h : v &&& 0x03 = 0x03
  · rw [if_pos h]
    exact ⟨rfl, c.afterPoll_startAdr, c.afterPoll_isIo, fun _ => ⟨rfl, rfl, rfl⟩, fun hn => absurd h hn⟩
  · rw [if_neg h]
    exact ⟨rfl, c.afterPoll_startAdr, c.afterPoll_isIo, fun h3 => absurd h3 h, fun _ => ⟨rfl, c.afterPoll_txData, rfl⟩⟩

end

/-- `fieldsSet` says nothing of `RTS`, `STATUS`, `CONTROL`, the output script and the log. -/
theorem fieldsSet_of_eq {c t u : SerialCard} {v : Byte} (h : c.fieldsSet v t)
    (hu : u = { t with rts := u.rts, status := u.status, control := u.control, txFail := u.txFail, log := u.log }) :
    c.fieldsSet v u := by
  rw [hu]
  exact h

theorem applyTxField_of_putFails {c : SerialCard} {v : Byte} (hv : v &&& 0x60 = 0x60) (h : c.putFails) :
    c.applyTxField v = .error { c with rts := 1, txFail := c.txFail.tail } := by
  rw [applyTxField_eq, if_pos hv]
  exact emit_of_putFails (c := { c with rts := 1 }) h _

theorem applyTxField_ok {c : SerialCard} {v : Byte} (h : v &&& 0x60 = 0x60 → ¬ c.putFails) : c.applyTxField v = .ok { c with
    rts := if v &&& 0x60 = 0x40 then 0 else 1
    log := c.log ++ if v &&& 0x60 = 0x60 then [.sendBreak] else []
    txFail := if v &&& 0x60 = 0x60 then c.txFail.tail else c.txFail } := by
  rw [applyTxField_eq]
  by_cases hv : v &&& 0x60 = 0x60
  · have hv4 : v &&& 0x60 ≠ 0x40 := by rw [hv]; decide
    rw [if_pos hv, if_pos hv, if_pos hv, if_neg hv4]
    exact emit_of_not_putFails (c := { c with rts := 1 }) (h hv) _
  · rw [if_neg hv, if_neg hv, if_neg hv, List.append_nil]

/-! ## The decode of a control write (R230, R233) -/

theorem controlDecode_of_error {c d : SerialCard} {v : Byte} (h : (c.lowFields v).applyTxField v = .error d) :
    c.controlDecode v = .error d := by
  rw [lowFields] at h
  simp only [controlDecode, h]

/-- On a legal status the flush that ends the decode finds `TDRE` up and does nothing. -/
theorem controlDecode_of_ok {c d : SerialCard} {v : Byte} (hl : c.statusLegal)
    (h : (c.lowFields v).applyTxField v = .ok d) :
    c.controlDecode v = .ok { d with status := (d.status &&& 0x7F) ||| (v &&& 0x80), control := v } := by
  have hd : d.statusLegal := (congrArg (· &&& 0x7E) (applyTxField_ok_status h)).trans (applyClockField_legal hl v)
  have hset : ({ d with status := setBit d.status 7 (v.getLsbD 7), control := v } : SerialCard).statusLegal :=
    (setBit_and _ _ 7 _ (by decide) (by decide)).trans hd
  rw [lowFields] at h
  simp only [controlDecode, h]
  rw [txFlush_of_tdre (tdre_of_legal hset), setBit_seven]

theorem afterPoll_legal {c : SerialCard} (hl : c.statusLegal) (h : ¬ c.pollFails) : c.afterPoll.statusLegal :=
  rxPoll_legal hl (rxPoll_of_not_pollFails h)

theorem putFails_congr {c d : SerialCard} (h : d.txFail = c.txFail) : d.putFails ↔ c.putFails := by
  rw [putFails, putFails, h]

end SerialCard

/-! ## The statements -/

/-- Settles O53: every access is its poll, and then the read of a register or the flush of a latched byte. -/
theorem serialPorts : Obligations.SerialPorts := by
  refine fun c => ⟨fun a io => ⟨c.answers_iff a io, c.selectsControl_iff a⟩, SerialCard.answers_portAddr_iff,
    fun p a v force => ⟨fun hp => ?_, fun hp => ⟨fun ha => ?_, fun ha => ⟨?_, fun hq => ?_, fun hq => ?_⟩⟩⟩⟩
  · exact ⟨_, rfl, Card.read_serial_error (SerialCard.read_of_pollFails hp p a),
      Card.write_serial_error (SerialCard.write_of_pollFails hp a v) force⟩
  · exact Card.read_serial_ok (SerialCard.read_status hp ha p)
  · exact Card.read_serial_ok (SerialCard.read_data hp ha p)
  · have hq' : ¬ c.afterPoll.putFails := mt (SerialCard.putFails_congr c.afterPoll_txFail).1 hq
    rw [Card.write_serial_ok ((SerialCard.write_data hp ha v).trans (SerialCard.latched_txFlush hq' v)) force,
      c.afterPoll_log, c.afterPoll_txFail]
  · have hq' : c.afterPoll.putFails := (SerialCard.putFails_congr c.afterPoll_txFail).2 hq
    exact ⟨_, Card.write_serial_error ((SerialCard.write_data hp ha v).trans
      (SerialCard.latched_txFlush_of_putFails hq' v)) force, rfl⟩

/-- Settles O54: the polled card takes the low fields, then the TX control field, which alone can fail, then `STATUS.IRQ` and
`CONTROL`. -/
theorem serialControlWrite : Obligations.SerialControlWrite := by
  intro c a v force hl ha hp
  have hwrite : c.write a v = c.afterPoll.controlDecode v := SerialCard.write_control hp ha v
  have hput : (c.afterPoll.lowFields v).putFails ↔ c.putFails := SerialCard.putFails_congr (by simp)
  refine ⟨fun h => ?_, fun hv h => ?_⟩
  · have htx := SerialCard.applyTxField_ok fun hv => mt hput.1 (h hv)
    have hdecode := SerialCard.controlDecode_of_ok (SerialCard.afterPoll_legal hl hp) htx
    refine ⟨_, Card.write_serial_ok (hwrite.trans hdecode) force, SerialCard.fieldsSet_of_eq (c.fieldsSet_lowFields v) rfl,
      rfl, rfl, ?_, ?_, ?_⟩
    · simp
    · simp
    · simp only [SerialCard.lowFields_status]
      split <;> rfl
  · have htx := SerialCard.applyTxField_of_putFails hv (hput.2 h)
    refine ⟨_, Card.write_serial_error (hwrite.trans (SerialCard.controlDecode_of_error htx)) force,
      SerialCard.fieldsSet_of_eq (c.fieldsSet_lowFields v) rfl, rfl, ?_, ?_⟩
    · simp only [SerialCard.lowFields_control, SerialCard.afterPoll_control]
    · exact SerialCard.lowFields_status _ v

end Sys2Proof.Machine
end

section
/-! SUPPORT. The faults of an instruction (60_exceptions.md R261, R264, R265): an operand access that fails ends it, in the state
its accesses and a begun push have left. -/

namespace Sys2Proof.Machine

/-! ## What an access leaves, whether it completes or not (60_exceptions.md R265) -/

theorem Accessed.kept {ws : List (Word × Bool)} {s t : State} (h : Accessed ws s t) (hcards : t = { s with slots := t.slots }) :
    Kept ws s t :=
  ⟨hcards, h.busConfig, h.romContents, fun _ _ hb => h.peek hb⟩

section
variable {i : Instr} {s t u : State}

/-- Before its first access an instruction that does not push has changed nothing. -/
theorem abandoned.refl (h : writesSp i = true → storesAt s i = []) : abandoned i s s := by
  have hsp : ¬ (writesSp i = true ∧ storesAt s i ≠ []) := fun ⟨hw, hs⟩ => hs (h hw)
  exact ⟨rfl, fun _ _ => rfl, ⟨fun _ _ => rfl, rfl⟩, rfl, by rw [if_neg hsp], rfl, rfl, fun _ _ => rfl, fun _ _ => rfl⟩

theorem abandoned.refl_of_keepsSp (h : writesSp i = false) : abandoned i s s :=
  .refl fun hw => absurd (h.symm.trans hw) nofun

/-- A push lowers `SP` before its first write (45_stack_io_control.md R200). -/
theorem abandoned.push (hw : writesSp i = true) (hs : storesAt s i ≠ []) :
    abandoned i s (s.set16 .sp (s.get16 .sp - 2)) :=
  ⟨rfl, fun _ _ => State.get8_set16_sp .., ⟨fun _ _ => rfl, rfl⟩, rfl, by rw [if_pos ⟨hw, hs⟩]; rfl, rfl, rfl,
    fun _ _ => rfl, fun _ _ => rfl⟩

/-- `INR M` and `DCR M` set `AC` between their read and their write (41_inc_dec_dad.md R131, R133). -/
theorem abandoned.setAc (h : abandoned i s t) (hi : i = .inrM ∨ i = .dcrM) (b : Bool) :
    abandoned i s (t.setFlag .ac b) := by
  obtain ⟨hout, h8, ⟨hflags, hconst⟩, hrest⟩ := h
  refine ⟨hout.trans (.of_regs t _), fun r hr => (t.get8_setFlag .ac b r).trans (h8 r hr), ⟨fun x hx => ?_, ?_⟩, hrest⟩
  · have hne : x ≠ .ac := by rw [if_pos hi] at hx; simpa using hx
    exact (t.flag_setFlag_ne b hne).trans (hflags x hx)
  · exact (t.constBits_setFlag .ac b).trans hconst

/-- An access, completed or not, whose writes are among those of the instruction. -/
theorem abandoned.access {ws : List (Word × Bool)} (h : abandoned i s t) (k : Kept ws t u)
    (hws : ∀ x ∈ ws, x ∈ accessesOf s i) : abandoned i s u := by
  obtain ⟨hout, h8, hflags, hpc, hsp, hconfig, hrom, hmem, hport⟩ := h
  have hregs : u.regs = t.regs := by rw [k.cards]
  refine ⟨hout.trans (.of_slots k.cards), ?_, ?_, ?_, ?_, k.config.trans hconfig, k.rom.trans hrom, fun a ha => ?_,
    fun a ha => ?_⟩
  · simpa only [keeps8, State.get8, hregs] using h8
  · simpa only [keepsFlags, State.flag, State.getF, hregs] using hflags
  · simpa only [State.get16, hregs] using hpc
  · simpa only [State.get16, hregs] using hsp
  · refine (k.bytes a false fun hm => ?_).trans (hmem a ha)
    rcases mem_accessesOf (hws _ hm) with ⟨_, hs⟩ | ⟨hio, _⟩
    · exact ha hs
    · cases hio
  · refine (k.bytes a true fun hm => ?_).trans (hport a ha)
    rcases mem_accessesOf (hws _ hm) with ⟨hio, _⟩ | ⟨_, p, hp, e⟩
    · cases hio
    · exact ha p hp e

end

theorem mem_accessesOf_of_stores {i : Instr} {s : State} {a : Word} (h : a ∈ storesAt s i) : (a, false) ∈ accessesOf s i :=
  List.mem_append_left _ (List.mem_map_of_mem h)

/-! ## The faults of an instruction -/

/-- `f` is `EndpointIoError` of one of the operand accesses of `i` executed in `s` (60_exceptions.md R265). -/
def AccessFault (i : Instr) (s : State) (f : Fault) : Prop :=
  ∃ a io s0 u, f = .endpointIoError u ∧ (a, io) ∈ touches s i ∧ abandoned i s s0 ∧ failsAt a io s0 u ∧ u.regs = s0.regs ∧
    abandoned i s u

/-- `f` is a fault `i` executed in `s` may raise (60_exceptions.md R261, R264, R265). -/
def InstrFault (i : Instr) (s : State) (f : Fault) : Prop :=
  (∃ op, i = .undefinedOpcode op ∧ f = .unknownOpcode op s ∧ (i.wf = true → op ∈ undefinedOpcodes)) ∨
  (s.params.flatArrayBus = true ∧ f = .unsupportedPortIo s ∧ ∃ p, i = .inPort p ∨ i = .outPort p) ∨
  AccessFault i s f

/-- If the action does not complete, its fault is one of `i` executed in `s`. -/
def Act.FaultsOf {α : Type} (i : Instr) (s : State) (r : Act α) : Prop := ∀ f, r = .error f → InstrFault i s f

/-- The outcome is no refusal, and if it is a fault, it is one of `i` executed in `s`. -/
def FaultsOf (i : Instr) (s : State) (o : Out) : Prop := (∀ r, o ≠ .refused r) ∧ ∀ f, o = .fault f → InstrFault i s f

theorem FaultsOf.next (i : Instr) (s t : State) : FaultsOf i s (.next t) :=
  ⟨fun _ e => (by cases e), fun _ e => by cases e⟩

theorem Act.FaultsOf.ok {α : Type} (i : Instr) (s : State) (x : α) (t : State) : Act.FaultsOf i s (.ok (x, t)) :=
  fun _ e => by cases e

theorem Act.FaultsOf.out {α : Type} {i : Instr} {s : State} {r : Act α} {k : α → State → Out} (h : r.FaultsOf i s)
    (hk : ∀ x t, r = .ok (x, t) → Machine.FaultsOf i s (k x t)) : Machine.FaultsOf i s (r.out k) := by
  cases r with
  | ok x => exact hk x.1 x.2 rfl
  | error f => exact ⟨fun _ e => (by cases e), fun _ e => by cases e; exact h f rfl⟩

theorem Act.FaultsOf.andThen {α β : Type} {i : Instr} {s : State} {r : Act α} {k : α → State → Act β} (h : r.FaultsOf i s)
    (hk : ∀ x t, r = .ok (x, t) → (k x t).FaultsOf i s) : (r.andThen k).FaultsOf i s := by
  cases r with
  | ok x => exact hk x.1 x.2 rfl
  | error f => exact fun _ e => by cases e; exact h f rfl

theorem Act.FaultsOf.done {i : Instr} {s : State} {r : Act Unit} (h : r.FaultsOf i s) : Machine.FaultsOf i s r.done :=
  h.out fun _ t _ => .next i s t

/-- What comes after an action that completes in every case cannot fault. -/
theorem Act.FaultsOf.out_next {α : Type} {i : Instr} {s : State} {r : Act α} (h : r.FaultsOf i s) (g : α → State → State) :
    Machine.FaultsOf i s (r.out fun x t => .next (g x t)) :=
  h.out fun x t _ => .next i s (g x t)

/-! ## Accesses (20_memory.md R48 to R56, 45_stack_io_control.md R200, R201) -/

section
variable {i : Instr} {s t : State} (h : abandoned i s t)
include h

theorem busRead_faultsOf {a : Word} {io : Bool} (ha : (a, io) ∈ touches s i) : (busRead a io t).FaultsOf i s := by
  intro f e
  obtain ⟨u, rfl, hfail, kept⟩ := busRead_error e
  exact .inr (.inr ⟨a, io, t, u, rfl, ha, h, hfail, by rw [kept.cards], h.access kept (List.forall_mem_nil _)⟩)

theorem busWrite_faultsOf {a : Word} {io : Bool} (v : Byte) (ha : (a, io) ∈ touches s i) (hw : (a, io) ∈ accessesOf s i) :
    (busWrite a v io t).FaultsOf i s := by
  intro f e
  obtain ⟨u, rfl, hfail, kept⟩ := busWrite_error e
  exact .inr (.inr ⟨a, io, t, u, rfl, ha, h, hfail, by rw [kept.cards], h.access kept (by simpa using hw)⟩)

theorem memWrite_faultsOf {a : Word} (v : Byte) (ha : (a, false) ∈ touches s i) (hw : a ∈ storesAt s i) :
    (memWrite a v t).FaultsOf i s := busWrite_faultsOf h v ha (mem_accessesOf_of_stores hw)

theorem abandoned.memRead {a : Word} {v : Byte} {u : State} (hr : memRead a t = .ok (v, u)) : abandoned i s u := by
  obtain ⟨hcards, acc⟩ := memRead_ok hr
  exact h.access (acc.kept hcards) (List.forall_mem_nil _)

theorem abandoned.memRead2 {a v : Word} {u : State} (hr : memRead2 a t = .ok (v, u)) : abandoned i s u := by
  obtain ⟨hcards, acc⟩ := memRead2_ok hr
  exact h.access (acc.kept hcards) (List.forall_mem_nil _)

theorem abandoned.memWrite {a : Word} {v : Byte} {u : State} (hr : memWrite a v t = .ok ((), u)) (hw : a ∈ storesAt s i) :
    abandoned i s u := by
  obtain ⟨hcards, acc⟩ := memWrite_ok hr
  exact h.access (acc.kept hcards) (by simpa using mem_accessesOf_of_stores hw)

theorem memRead2_faultsOf {a : Word} (ht : touches s i = [(a, false), (a + 1, false)]) : (memRead2 a t).FaultsOf i s :=
  (busRead_faultsOf h (by simp [ht])).andThen fun _ _ h1 =>
    (busRead_faultsOf (h.memRead h1) (by simp [ht])).andThen fun _ _ _ => .ok i s _ _

theorem memWrite2_faultsOf {a : Word} (v : Word) (ht : touches s i = [(a, false), (a + 1, false)])
    (hs : storesAt s i = [a, a + 1]) : (memWrite2 a v t).FaultsOf i s :=
  (memWrite_faultsOf h (lo8 v) (by simp [ht]) (by simp [hs])).andThen fun _ _ h1 =>
    memWrite_faultsOf (h.memWrite h1 (by simp [hs])) (hi8 v) (by simp [ht]) (by simp [hs])

end

section
variable {i : Instr} {s : State}

/-- Reads at the top of the stack (45_stack_io_control.md R201). -/
theorem pop16_faultsOf (hs : storesAt s i = []) (ht : touches s i = [(s.get16 .sp, false), (s.get16 .sp + 1, false)]) :
    (pop16 s).FaultsOf i s :=
  (memRead2_faultsOf (.refl fun _ => hs) ht).andThen fun _ _ _ => .ok i s _ _

/-- Writes below the stack, `SP` already lowered (45_stack_io_control.md R200). -/
theorem push16_faultsOf (v : Word) (hw : writesSp i = true) (hs : storesAt s i = [s.get16 .sp - 2, s.get16 .sp - 1])
    (ht : touches s i = [(s.get16 .sp - 2, false), (s.get16 .sp - 1, false)]) : (push16 v s).FaultsOf i s := by
  rw [← sub_two_add_one] at hs ht
  exact memWrite2_faultsOf (.push hw (by simp [hs])) v ht hs

/-! ## Ports (20_memory.md R65, 60_exceptions.md R264) -/

theorem inPort_faultsOf (p : Byte) : (ioRead p s).FaultsOf (.inPort p) s := by
  cases hb : s.params.flatArrayBus with
  | false => rw [ioRead_of_cardBus hb]; exact busRead_faultsOf (.refl_of_keepsSp rfl) (List.mem_singleton_self _)
  | true => rw [ioRead_of_flatArray hb]; exact fun _ e => by cases e; exact .inr (.inl ⟨hb, rfl, p, .inl rfl⟩)

theorem outPort_faultsOf (p v : Byte) : (ioWrite p v s).FaultsOf (.outPort p) s := by
  cases hb : s.params.flatArrayBus with
  | false =>
    rw [ioWrite_of_cardBus hb]
    exact busWrite_faultsOf (.refl_of_keepsSp rfl) v (List.mem_singleton_self _) (List.mem_singleton_self _)
  | true => rw [ioWrite_of_flatArray hb]; exact fun _ e => by cases e; exact .inr (.inl ⟨hb, rfl, p, .inr rfl⟩)

/-! ## The shared operations of the families -/

/-- An instruction that reads one byte of memory and then only registers change. -/
theorem memRead_next_faultsOf {a : Word} (hs : storesAt s i = []) (ht : touches s i = [(a, false)])
    (g : Byte → State → State) : FaultsOf i s ((memRead a s).out fun v t => .next (g v t)) :=
  (busRead_faultsOf (.refl fun _ => hs) (by simp [ht])).out_next g

/-- An instruction that writes one byte of memory, no push. -/
theorem memWrite_done_faultsOf {a : Word} (v : Byte) (hw : writesSp i = false) (hs : storesAt s i = [a])
    (ht : touches s i = [(a, false)]) : FaultsOf i s (memWrite a v s).done :=
  (memWrite_faultsOf (.refl_of_keepsSp hw) v (by simp [ht]) (by simp [hs])).done

/-- What `INR M` and `DCR M` share: the byte at `HL` is read, `AC` set, the result written there (41_inc_dec_dad.md R131,
R133). -/
theorem count_faultsOf {f : Byte → Byte} {ac : Byte → Bool} (hi : i = .inrM ∨ i = .dcrM) :
    FaultsOf i s ((readR8 .m s).out fun v s1 =>
      (writeR8 .m (f v) (s1.setFlag .ac (ac v))).out fun _ s2 => .next (s2.setZsp (f v))) := by
  have hs : storesAt s i = [s.get16 .hl] := by rcases hi with rfl | rfl <;> rfl
  have ht : touches s i = [(s.get16 .hl, false)] := by rcases hi with rfl | rfl <;> rfl
  have h : abandoned i s s := .refl_of_keepsSp (by rcases hi with rfl | rfl <;> rfl)
  refine (busRead_faultsOf h (by simp [ht, State.mAddr])).out fun v s1 h1 => ?_
  have hhl : (s1.setFlag .ac (ac v)).mAddr = s.get16 .hl := by rw [(memRead_ok h1).1]; rfl
  exact Act.FaultsOf.out_next
    (memWrite_faultsOf ((h.memRead h1).setAc hi _) _ (by simp [ht, hhl]) (by simp [hs, hhl])) _

theorem callTo_faultsOf (target : Word) (hw : writesSp i = true) (hs : storesAt s i = [s.get16 .sp - 2, s.get16 .sp - 1])
    (ht : touches s i = [(s.get16 .sp - 2, false), (s.get16 .sp - 1, false)]) : FaultsOf i s (callTo target s) :=
  (push16_faultsOf _ hw hs ht).out_next _

/-- A conditional call accesses the stack only when it is taken (44_control_flow.md R188). -/
theorem callIf_faultsOf {cc : Cond} (a16 : Word) (hw : writesSp i = true)
    (hs : storesAt s i = if s.cond cc then [s.get16 .sp - 2, s.get16 .sp - 1] else [])
    (ht : touches s i = if s.cond cc then [(s.get16 .sp - 2, false), (s.get16 .sp - 1, false)] else []) :
    FaultsOf i s (callIf cc a16 s) := by
  unfold callIf
  split
  · next hc => exact callTo_faultsOf a16 hw (hs.trans (if_pos hc)) (ht.trans (if_pos hc))
  · exact .next i s s

theorem returnFromCall_faultsOf (hs : storesAt s i = [])
    (ht : touches s i = [(s.get16 .sp, false), (s.get16 .sp + 1, false)]) : (returnFromCall s).FaultsOf i s :=
  (pop16_faultsOf hs ht).andThen fun _ _ _ => .ok i s _ _

/-- A conditional return accesses the stack only when it is taken (44_control_flow.md R190). -/
theorem returnIf_faultsOf {cc : Cond} (hs : storesAt s i = [])
    (ht : touches s i = if s.cond cc then [(s.get16 .sp, false), (s.get16 .sp + 1, false)] else []) :
    FaultsOf i s (returnIf cc s) := by
  unfold returnIf
  split
  · next hc => exact (returnFromCall_faultsOf hs (ht.trans (if_pos hc))).done
  · exact .next i s s

theorem exchangeTop_faultsOf : FaultsOf .xthl s (exchangeTop s) :=
  (memRead2_faultsOf (.refl_of_keepsSp rfl) rfl).out fun _ _ h1 =>
    (memWrite2_faultsOf ((abandoned.refl_of_keepsSp (i := .xthl) rfl).memRead2 h1) _ rfl rfl).out_next _

end

/-! ## Every instruction -/

/-- The faults of every instruction; one without an operand access in memory, on the stack or at a port has none. -/
theorem exec_faultsOf (i : Instr) (s : State) : FaultsOf i s (exec i s) := by
  cases i
  case undefinedOpcode op =>
    exact ⟨fun _ e => (by cases e), fun f e => by cases e; exact .inl ⟨op, rfl, rfl, fun hwf => by simpa [Instr.wf] using hwf⟩⟩
  case inPort p => exact (inPort_faultsOf p).out_next _
  case outPort p => exact (outPort_faultsOf p _).done
  case staxB | staxD | sta => exact memWrite_done_faultsOf _ rfl rfl rfl
  case movMB | movMC | movMD | movME | movMH | movML | movMA | mviM => exact memWrite_done_faultsOf _ rfl rfl rfl
  case ldaxB | ldaxD | lda => exact memRead_next_faultsOf rfl rfl _
  case movBM | movCM | movDM | movEM | movHM | movLM | movAM => exact memRead_next_faultsOf rfl rfl _
  case addM | adcM | subM | sbbM | anaM | xraM | oraM | cmpM => exact memRead_next_faultsOf rfl rfl _
  case shld => exact (memWrite2_faultsOf (.refl_of_keepsSp rfl) _ rfl rfl).done
  case lhld => exact (memRead2_faultsOf (.refl_of_keepsSp rfl) rfl).out_next _
  case inrM => exact count_faultsOf (.inl rfl)
  case dcrM => exact count_faultsOf (.inr rfl)
  case rst0 | rst1 | rst2 | rst3 | rst4 | rst5 | rst6 | rst7 | call => exact callTo_faultsOf _ rfl rfl rfl
  case cnz | cz | cnc | cc | cpo | cpe | cp | cm => exact callIf_faultsOf _ rfl rfl rfl
  case ret => exact (returnFromCall_faultsOf rfl rfl).done
  case rnz | rz | rnc | rc | rpo | rpe | rp | rm => exact returnIf_faultsOf rfl rfl
  case pushB | pushD | pushH | pushPsw => exact (push16_faultsOf _ rfl rfl rfl).done
  case popB | popD | popH | popPsw => exact (pop16_faultsOf rfl rfl).out_next _
  case xthl => exact exchangeTop_faultsOf
  all_goals exact .next _ s _

theorem defined_of_touches {i : Instr} {s : State} {x : Word × Bool} (h : x ∈ touches s i) : i.defined = true := by
  cases i
  case undefinedOpcode => exact absurd h List.not_mem_nil
  all_goals rfl

/-- Where no endpoint fails the instruction completes, so an access that fails has found one that does. -/
theorem not_healthy_of_accessFault {i : Instr} {s : State} {f : Fault} (hx : exec i s = .fault f) (h : AccessFault i s f) :
    ¬ s.healthy := by
  intro hh
  obtain ⟨a, io, s0, u, rfl, ha, _⟩ := h
  have hbus : s.params.flatArrayBus = false ∨ ∀ p, i ≠ .inPort p ∧ i ≠ .outPort p := by
    cases hb : s.params.flatArrayBus with
    | false => exact .inl rfl
    | true =>
      refine .inr fun p => ⟨?_, ?_⟩
      · rintro rfl
        rw [exec, execInPort, ioRead_of_flatArray hb] at hx
        cases hx
      · rintro rfl
        rw [exec, execOutPort, ioWrite_of_flatArray hb] at hx
        cases hx
  obtain ⟨t, ht, _⟩ := exec_completes hh (defined_of_touches ha) hbus
  rw [hx] at ht
  cases ht

/-- Settles O47: the accesses of the instruction in turn, each from the state the ones before it have left. -/
theorem executeFaults : Obligations.ExecuteFaults := by
  intro i s
  obtain ⟨hrefused, hfault⟩ := exec_faultsOf i s
  refine ⟨hrefused, fun f e => ?_⟩
  rcases hfault f e with hundefined | hport | haccess
  · exact .inl hundefined
  · exact .inr (.inl hport)
  · exact .inr (.inr ⟨not_healthy_of_accessFault e haccess, haccess⟩)

end Sys2Proof.Machine
end

section
/-! SUPPORT. The IRQ aggregator (60_exceptions.md R263, R270, R271). -/

namespace Sys2Proof.Machine

theorem getLsbD_seven_iff (v : Byte) : v.getLsbD 7 = true ↔ v &&& 0x80 ≠ 0 := by
  have hmask : v &&& 0x80 = if v.getLsbD 7 then 0x80 else 0 := BitVec.and_twoPow v 7
  rw [hmask]
  cases v.getLsbD 7 <;> decide

/-- A request exists exactly when some card raises one. -/
theorem irqSlots_isSome_iff (p : Params) (l : List (Option Slot)) :
    (irqSlots p l).isSome = true ↔ ∃ sl, some sl ∈ l ∧ (sl.card.irqRequest p).isSome = true := by
  induction l with
  | nil => simp [irqSlots]
  | cons e rest ih =>
    cases e with
    | none => simpa [irqSlots] using ih
    | some sl =>
      cases hr : sl.card.irqRequest p with
      | none => simp [irqSlots, hr, ih]
      | some inst => simp [irqSlots, hr]

/-- Slots before the first that requests do not matter. -/
theorem irqSlots_append (p : Params) (pre post : List (Option Slot))
    (h : ∀ x, some x ∈ pre → x.card.irqRequest p = none) : irqSlots p (pre ++ post) = irqSlots p post := by
  induction pre with
  | nil => rfl
  | cons e rest ih =>
    have hrest := ih fun x hx => h x (List.mem_cons_of_mem _ hx)
    cases e with
    | none => exact hrest
    | some sl => simp only [List.cons_append, irqSlots, h sl (List.mem_cons_self ..), hrest]

theorem busGetIrq_of_no_request {s : State} (h : busIsIrq s = false) : busGetIrq s = .error .noIrq := by
  rw [busGetIrq, Option.not_isSome_iff_eq_none.1 (ne_true_of_eq_false h)]

theorem busGetIrq_of_first {s : State} {pre post : List (Option Slot)} {sl : Slot} {inst : IrqInst}
    (hs : s.slots = pre ++ some sl :: post) (hpre : ∀ x, some x ∈ pre → x.card.irqRequest s.params = none)
    (hsl : sl.card.irqRequest s.params = some inst) : busGetIrq s = .ok inst := by
  have hfirst : irqSlots s.params s.slots = some inst := by
    rw [hs, irqSlots_append s.params pre _ hpre]
    simp only [irqSlots, hsl]
  rw [busGetIrq, hfirst]

/-- Settles O55: the request of each kind of card, and the search for the first one in slot order. -/
theorem lowestSlotInterrupts : Obligations.LowestSlotInterrupts := by
  refine ⟨fun _ _ => rfl, fun p c => ?_, fun _ _ => rfl, fun s =>
    ⟨irqSlots_isSome_iff s.params s.slots, busGetIrq_of_no_request, fun _ _ _ _ => busGetIrq_of_first⟩⟩
  simp only [Card.irqRequest, SerialCard.irqBit, Bool.and_eq_true, getLsbD_seven_iff]

end Sys2Proof.Machine
end

section
/-! SUPPORT. The run loop and the machine's steps (60_exceptions.md R272 to R274, log 5): a cycle is one `Step()` and then the
acceptances, each of which is one step. -/

namespace Sys2Proof.Machine

section
variable {s t : State}

theorem step_of_go (h : boundaryCheck s = .go t) : step s = cpuStep t := by
  simp only [step, machineStep, busRefresh_eq, h]

/-! ## The acceptances of a cycle as steps -/

theorem acceptWhile_of_go (h : boundaryCheck s = .go t) (n : Nat) : acceptWhile n s = some (.next t) := by
  cases n <;> simp only [acceptWhile, h]

theorem acceptWhile_zero_of_accepts (h : s.accepts) : acceptWhile 0 s = none := by
  obtain ⟨inst, v, hb⟩ := h
  simp only [acceptWhile, hb]

/-- The outcome of a step, and the acceptances after it. -/
def thenAccept (n : Nat) (o : Out) : Option Out :=
  match o with
  | .next t => acceptWhile n t
  | .fault f => some (.fault f)
  | .refused r => some (.refused r)

theorem acceptWhile_succ_of_accepts (h : s.accepts) (n : Nat) : acceptWhile (n + 1) s = thenAccept n (step s) := by
  obtain ⟨inst, v, hb⟩ := h
  simp only [acceptWhile, step, machineStep, busRefresh_eq, hb]
  cases acceptInterrupt inst v <;> rfl

theorem cycle_eq (n : Nat) (s : State) : cycle n s = thenAccept n (cpuStep s) := by
  simp only [cycle, busRefresh_eq]
  cases cpuStep s <;> rfl

end

/-! ## How the acceptances end -/

/-- What comes of at most `n` acceptances from `s`: the check finds no request, an acceptance stops, or `n` acceptances leave
another one to come. -/
inductive AcceptOutcome (n : Nat) (s : State) : Option Out → Prop
  | go {k : Nat} {u t : State} : k ≤ n → acceptancesTo k s u → boundaryCheck u = .go t → AcceptOutcome n s (some (.next t))
  | fault {k : Nat} {u : State} {f : Fault} : k < n → acceptancesTo k s u → u.accepts → step u = .fault f →
      AcceptOutcome n s (some (.fault f))
  | refused {k : Nat} {u : State} {r : Refusal} : k < n → acceptancesTo k s u → u.accepts → step u = .refused r →
      AcceptOutcome n s (some (.refused r))
  | more {u : State} : acceptancesTo n s u → u.accepts → AcceptOutcome n s none

/-- An acceptance before the others. -/
theorem AcceptOutcome.cons {n : Nat} {s v : State} {o : Option Out} (ha : s.accepts) (hs : step s = .next v)
    (h : AcceptOutcome n v o) : AcceptOutcome (n + 1) s o := by
  cases h with
  | go hk hto hgo => exact .go (Nat.succ_le_succ hk) ⟨ha, v, hs, hto⟩ hgo
  | fault hk hto hacc hf => exact .fault (Nat.succ_lt_succ hk) ⟨ha, v, hs, hto⟩ hacc hf
  | refused hk hto hacc hr => exact .refused (Nat.succ_lt_succ hk) ⟨ha, v, hs, hto⟩ hacc hr
  | more hto hacc => exact .more ⟨ha, v, hs, hto⟩ hacc

theorem go_or_accepts (s : State) : (∃ t, boundaryCheck s = .go t) ∨ s.accepts := by
  cases hb : boundaryCheck s with
  | go t => exact .inl ⟨t, rfl⟩
  | accept inst u => exact .inr ⟨inst, u, hb⟩

theorem acceptWhile_outcome (n : Nat) (s : State) : AcceptOutcome n s (acceptWhile n s) := by
  induction n generalizing s with
  | zero =>
    rcases go_or_accepts s with ⟨t, hgo⟩ | ha
    · rw [acceptWhile_of_go hgo]; exact .go (Nat.le_refl 0) rfl hgo
    · rw [acceptWhile_zero_of_accepts ha]; exact .more rfl ha
  | succ n ih =>
    rcases go_or_accepts s with ⟨t, hgo⟩ | ha
    · rw [acceptWhile_of_go hgo]; exact .go (Nat.zero_le _) rfl hgo
    · rw [acceptWhile_succ_of_accepts ha]
      cases hs : step s with
      | next v => exact (ih v).cons ha hs
      | fault f => exact .fault (Nat.succ_pos n) rfl ha hs
      | refused r => exact .refused (Nat.succ_pos n) rfl ha hs

/-- After `k` acceptances the loop goes on from the state they reach. -/
theorem acceptWhile_of_acceptancesTo {k : Nat} {s u : State} (h : acceptancesTo k s u) (m : Nat) :
    acceptWhile (k + m) s = acceptWhile m u := by
  induction k generalizing s with
  | zero => obtain rfl := h; rw [Nat.zero_add]
  | succ k ih =>
    obtain ⟨ha, v, hs, hto⟩ := h
    rw [Nat.succ_add, acceptWhile_succ_of_accepts ha, hs]
    exact ih hto

/-- Where the step after fewer than `n` acceptances is an acceptance, its outcome decides. -/
theorem acceptWhile_of_lt {n k : Nat} {s u : State} (hk : k < n) (h : acceptancesTo k s u) (ha : u.accepts) :
    ∃ m, acceptWhile n s = thenAccept m (step u) := by
  obtain ⟨m, rfl⟩ := Nat.exists_eq_add_of_lt hk
  exact ⟨m, (acceptWhile_of_acceptancesTo h (m + 1)).trans (acceptWhile_succ_of_accepts ha m)⟩

theorem AcceptOutcome.eq {n : Nat} {s : State} {o : Option Out} (h : AcceptOutcome n s o) : acceptWhile n s = o := by
  cases h with
  | go hk hto hgo =>
    obtain ⟨m, rfl⟩ := Nat.exists_eq_add_of_le hk
    rw [acceptWhile_of_acceptancesTo hto, acceptWhile_of_go hgo]
  | fault hk hto hacc hf =>
    obtain ⟨m, e⟩ := acceptWhile_of_lt hk hto hacc
    rw [e, hf, thenAccept]
  | refused hk hto hacc hr =>
    obtain ⟨m, e⟩ := acceptWhile_of_lt hk hto hacc
    rw [e, hr, thenAccept]
  | more hto hacc => exact (acceptWhile_of_acceptancesTo hto 0).trans (acceptWhile_zero_of_accepts hacc)

/-- The loop ends as the steps say, and only so. -/
theorem acceptWhile_eq_iff {n : Nat} {s : State} {o : Option Out} : acceptWhile n s = o ↔ AcceptOutcome n s o :=
  ⟨fun h => h ▸ acceptWhile_outcome n s, AcceptOutcome.eq⟩

/-- Settles O58: the first step of the cycle is one step of the machine, and `AcceptOutcome` says how the acceptances after it
end. -/
theorem cycleIsSteps : Obligations.CycleIsSteps := by
  intro n s0 s hgo
  have hcycle : cycle n s = thenAccept n (step s0) := by rw [cycle_eq, step_of_go hgo]
  rw [hcycle]
  cases step s0 with
  | next u0 =>
    refine ⟨fun t => ⟨fun h => ?_, ?_⟩, fun f => ⟨fun h => ?_, ?_⟩, fun h => ?_, ?_⟩
    · cases acceptWhile_eq_iff.1 h with
      | go hk hto hu => exact ⟨_, u0, _, hk, rfl, hto, hu⟩
    · rintro ⟨k, _, u, hk, ⟨⟩, hto, hu⟩
      exact (AcceptOutcome.go hk hto hu).eq
    · cases acceptWhile_eq_iff.1 h with
      | fault hk hto hacc hf => exact .inr ⟨_, u0, _, hk, rfl, hto, hacc, hf⟩
    · rintro (⟨⟨⟩⟩ | ⟨k, _, u, hk, ⟨⟩, hto, hacc, hf⟩)
      exact (AcceptOutcome.fault hk hto hacc hf).eq
    · cases acceptWhile_eq_iff.1 h with
      | more hto hacc => exact ⟨u0, _, rfl, hto, hacc⟩
    · rintro ⟨_, u, ⟨⟩, hto, hacc⟩
      exact (AcceptOutcome.more hto hacc).eq
  | fault f0 => simp [thenAccept]
  | refused r => simp [thenAccept]

end Sys2Proof.Machine
end

section
/-! SUPPORT. The pseudo-BDOS shim (60_exceptions.md R262, R285 to R287): the print functions at `pc = 0x0005` and the warm boot at
`pc = 0x0000`. -/

namespace Sys2Proof.Machine

/-- Bytes stand where the memory space reads the same. -/
theorem bytesAt.of_peek {s t : State} (h : ∀ a, t.peek false a = s.peek false a) {bs : List Byte} {a : Word}
    (hb : bytesAt s a bs) : bytesAt t a bs := by
  induction bs generalizing a with
  | nil => trivial
  | cons b rest ih => exact ⟨(h a).trans hb.1, ih hb.2⟩

/-! ## The hook in place of the step's instruction (30_encoding.md R82) -/

section
variable {s : State} (hp : s.params.pseudoBdos = true) (hh : s.halted = false)
include hp hh

theorem cpuStep_of_shim : cpuStep s = (bdosHook s).out fun handled s1 => if handled then .next s1 else runInstr s1 := by
  rw [cpuStep, hh, hp, if_neg Bool.false_ne_true, if_pos rfl]

theorem cpuStep_at_call (hpc : s.get16 .pc = 0x0005) : cpuStep s = (bdosCall s).done := by
  have hne : s.get16 .pc ≠ 0x0000 := by rw [hpc]; decide
  rw [cpuStep_of_shim hp hh, bdosHook, if_neg hne, if_pos hpc]
  cases bdosCall s <;> rfl

theorem cpuStep_at_boot (hpc : s.get16 .pc = 0x0000) : cpuStep s = (bdosBoot s).out fun _ s1 => runInstr s1 := by
  rw [cpuStep_of_shim hp hh, bdosHook, if_pos hpc]
  cases bdosBoot s <;> rfl

end

/-! ## The print functions (R287) -/

/-- A string in data cards is printed up to its `$`, and reading it changes nothing. -/
theorem printString_of_bytes {text : List Byte} {n : Nat} {a : Word} {s : State} (hb : bytesAt s a (text ++ [0x24]))
    (hd : 0x24 ∉ text) (hn : text.length < n) : printString n a s = .ok ((), { s with sink := s.sink ++ text }) := by
  induction text generalizing n a s with
  | nil =>
    obtain ⟨n, rfl⟩ := Nat.exists_eq_add_of_lt hn
    obtain ⟨hpeek, _⟩ := hb
    simp [printString, memRead_of_peek hpeek]
  | cons b rest ih =>
    cases n with
    | zero => exact absurd hn (Nat.not_lt_zero _)
    | succ n =>
      obtain ⟨hpeek, hrest⟩ := hb
      have hne : b ≠ 0x24 := fun e => hd (e ▸ List.mem_cons_self ..)
      have hprinted : bytesAt { s with sink := s.sink ++ [b] } (a + 1) (rest ++ [0x24]) :=
        bytesAt.of_peek (fun _ => by rfl) hrest
      have htail := ih hprinted (fun hm => hd (List.mem_cons_of_mem _ hm))
        (Nat.lt_of_succ_lt_succ hn)
      rw [printString, memRead_of_peek hpeek]
      simp only [if_neg hne]
      exact htail.trans (by simp)

theorem bdosFunction_print {s : State} (hc : s.get8 .c = 0x02) :
    bdosFunction s = .ok ((), { s with sink := s.sink ++ [s.get8 .e] }) := by rw [bdosFunction, if_pos hc]

theorem bdosFunction_printString {s : State} (hc : s.get8 .c = 0x09) {text : List Byte}
    (hb : bytesAt s (s.get16 .de) (text ++ [0x24])) (hd : 0x24 ∉ text) (hn : text.length < bdosStringBound) :
    bdosFunction s = .ok ((), { s with sink := s.sink ++ text }) := by
  have hne : s.get8 .c ≠ 0x02 := by rw [hc]; decide
  rw [bdosFunction, if_neg hne, if_pos hc, printString_of_bytes hb hd hn]

/-- A print function that only prints: the byte at 5 is consumed and `pc` is popped (60_exceptions.md R287). -/
theorem bdosCall_of_print {s : State} {out : List Byte} {b lo hi : Byte} (hq : s.irqQueue = [])
    (hf : bdosFunction s = .ok ((), { s with sink := out })) (hb : s.peek false (s.get16 .pc) = some b)
    (hlo : s.peek false (s.get16 .sp) = some lo) (hhi : s.peek false (s.get16 .sp + 1) = some hi) :
    bdosCall s = .ok ((), { s.set16 .sp (s.get16 .sp + 2) with sink := out }.set16 .pc (pair hi lo)) := by
  have hfetch := fetch8_of_peek (s := { s with sink := out }) hq hb
  have hpop := pop16_of_peek (s := ({ s with sink := out } : State).set16 .pc (s.get16 .pc + 1)) hlo hhi
  rw [bdosCall, hf, Act.andThen_of_ok, hfetch, Act.andThen_of_ok]
  exact (congrArg (Act.andThen · _) hpop).trans rfl

/-- Settles O59: the print, the byte consumed and the pop of `pc`; with another number the print is the fault. -/
theorem bdosPrints : Obligations.BdosPrints := by
  intro s hp hh hq hpc
  rw [cpuStep_at_call hp hh hpc]
  refine ⟨fun b lo hi hb hlo hhi => ?_, fun h2 h9 => ?_⟩
  · rw [← hpc] at hb
    refine ⟨fun hc => ?_, fun hc text hd hn htext => ?_⟩
    · rw [bdosCall_of_print hq (bdosFunction_print hc) hb hlo hhi, Act.done_of_ok]
    · rw [bdosCall_of_print hq (bdosFunction_printString hc htext hd hn) hb hlo hhi, Act.done_of_ok]
  · rw [bdosCall, bdosFunction, if_neg h2, if_neg h9, Act.andThen_of_error]
    rfl

/-! ## The write of `HLT` (R286) -/

/-- Where `peek` shows a byte, no card answers or a data card answers first. -/
theorem unmapped_or_dataAt_of_peek {s : State} {a : Word} {b : Byte} (h : s.peek false a = some b) :
    s.unmapped false a ∨ s.dataAt a := by
  rcases readSlots_cases (p := s.params) (a := a) (io := false) s.slots with ⟨_, hn⟩ | ⟨pre, sl, post, hs, hpre, hsl, _⟩
  · exact .inl hn
  · refine .inr ⟨pre, sl, post, hs, hpre, hsl, ?_⟩
    have hbyte : sl.card.peekByte a = some b := by
      rw [← h, State.peek, hs, peekSlots_append a false pre _ hpre, peekSlots_cons, if_pos hsl]
    cases hc : sl.card with
    | data c => exact ⟨c, rfl⟩
    | serial c => rw [hc] at hbyte; cases hbyte
    | other c => rw [hc] at hbyte; cases hbyte

theorem memWrite_of_unmapped {s : State} {a : Word} (h : s.unmapped false a) (v : Byte) : memWrite a v s = .ok ((), s) := by
  simp only [memWrite, busWrite, busWriteWith, writeSlots_of_unmapped h]

/-- A write that no RAM takes leaves the byte `peek` shows (20_memory.md R46, R49). -/
theorem memWrite_dropped {s t : State} {a : Word} {v b : Byte} (h : memWrite a v s = .ok ((), t)) (hr : s.ramAt a = false)
    (hb : s.peek false a = some b) : t.peek false a = s.peek false a := by
  rcases unmapped_or_dataAt_of_peek hb with hu | hdata
  · rw [memWrite_of_unmapped hu] at h
    cases h; rfl
  · simp only [memWrite, busWrite, busWriteWith] at h
    split at h
    · next hw => cases h; exact peekSlots_wrote_rom (writeSlots_ok hw) hr (ramSlots_unlocked_of_dataAt hdata)
    · cases h

/-- Such a write changes no byte of the memory space. -/
theorem memWrite_dropped_peek {s t : State} {a : Word} {v b : Byte} (h : memWrite a v s = .ok ((), t))
    (hr : s.ramAt a = false) (hb : s.peek false a = some b) (c : Word) : t.peek false c = s.peek false c := by
  by_cases hc : c = a
  · rw [hc]; exact memWrite_dropped h hr hb
  · exact (memWrite_ok h).2.peek (by simpa using hc)

theorem bdosBoot_later {s : State} (hj : s.justBooted = false) : bdosBoot s = memWrite 0x0000 0x76 s := by
  rw [bdosBoot, hj, if_neg Bool.false_ne_true]

/-- Fetch and execute at address 0 where bytes in data cards decode to an instruction. -/
theorem runInstr_at_zero {t : State} {bs : List Byte} {i : Instr} (hq : t.irqQueue = []) (hpc : t.get16 .pc = 0x0000)
    (hb : bytesAt t 0x0000 bs) (hd : decode bs = .ok (i, [])) :
    runInstr t = exec i (t.set16 .pc (BitVec.ofNat 16 bs.length)) := by
  rw [runInstr_of_reads hq (by rw [hpc]; exact hb.readsBytes) hd, hpc]
  exact congrArg (fun w => exec i (t.set16 .pc w)) (BitVec.zero_add _)

/-- Settles O60: the hook is the clearing of `just_booted` or one write, and the instruction is fetched after it. -/
theorem bdosWarmBoot : Obligations.BdosWarmBoot := by
  intro s hp hh hq hpc
  rw [cpuStep_at_boot hp hh hpc]
  refine ⟨fun hj => ?_, fun hj healthy => ?_, fun hj f hf => ?_⟩
  · rw [bdosBoot, if_pos hj, Act.out_of_ok]
  · obtain ⟨t, hw, hcards, _⟩ := busWrite_healthy 0x0000 0x76 false healthy
    have hqt : t.irqQueue = [] := by rw [hcards]; exact hq
    have hpct : t.get16 .pc = 0x0000 := by rw [hcards]; exact hpc
    rw [bdosBoot_later hj]
    refine ⟨t, hw, hcards, by rw [memWrite, hw, Act.out_of_ok], fun hu => ?_, fun hr => ?_, fun hr b hb => ?_⟩
    · exact ((Prod.mk.inj (Except.ok.inj ((memWrite_of_unmapped hu 0x76).symm.trans hw))).2).symm
    · have hbyte : t.peek false 0x0000 = some 0x76 := memWrite_stores hw hr
      refine ⟨?_, hbyte⟩
      rw [memWrite, hw, Act.out_of_ok, runInstr_at_zero hqt hpct (bs := [0x76]) ⟨hbyte, trivial⟩ rfl]
      rfl
    · have hsame := memWrite_dropped_peek hw hr hb
      refine ⟨(hsame 0x0000).trans hb, fun bs i hbs hd => ?_⟩
      rw [memWrite, hw, Act.out_of_ok, runInstr_at_zero hqt hpct (hbs.of_peek hsame) hd]
  · rw [bdosBoot_later hj, hf, Act.out_of_error]

end Sys2Proof.Machine
end
